-- ==== Sys2Proof/Word.lean ====
section
/-! DEFINITION. The words of this hardware: the two dispatch words and the level of a pin. -/

namespace Sys2Proof

/-- The Domain-A dispatch word `D` of rule R66: `D[5]` rstA, `D[4:3]` st, `D[2]` trig, `D[1]` last, `D[0]` zero. -/
abbrev DWord := BitVec 6

/-- The detector dispatch word `T` of rule R67: `T[2]` rstn, `T[1]` dt, `T[0]` rti1. -/
abbrev TWord := BitVec 3

/-- The level on a pin or on a net (rules R7, R8): driven low, driven high, or high impedance `Z`. -/
inductive Level
  | lo
  | hi
  | z
deriving DecidableEq, Repr, Inhabited

/-- The level of a driven bit (rule R7: `0` is low, `1` is high). -/
def Level.ofBool (b : Bool) : Level := if b then .hi else .lo

end Sys2Proof
end

