-- ==== Sys2Proof/Config.lean ====
section
/-! DEFINITION. What is fixed when the hardware is built (rule R5), and the one free value of the model. -/

namespace Sys2Proof

/-- The two modes of the Chain Selection Detector (rule R80). A build parameter, not a run-time mode (rule R175, D21). -/
inductive DetMode
  | passthrough
  | latched
deriving DecidableEq, Repr

/-- The parameter `ZERO_HDR` (rule R5, D8): what a header value of zero does. -/
inductive ZeroHdr
  /-- To IDLE without a tick in TRANSFER: the behaviour every rule of the spec describes. -/
  | idleDirect
  /-- `finish(0)` gives `(TRANSFER, W-1, 0)`, which XFER.LAST ends after one tick. -/
  | oneTick
deriving DecidableEq, Repr

/-- The build parameters of rule R5, each with the spec's default (log entries 1 and 4). `N_INST` is the number of instances the
state holds and `INIT` is `State.powerUp`. -/
structure Build where
  /-- `W`: the header width. -/
  w : Nat := 32
  /-- `DET_MODE`. -/
  detMode : DetMode := .passthrough
  /-- `HAS_AUX`: whether the write-protect and hold outputs exist. -/
  hasAux : Bool := true
  /-- `ZERO_HDR`. -/
  zeroHdr : ZeroHdr := .idleDirect
  /-- `IDLE_EVT`: whether the latched detector has the separate idle-entry input `p.rti`. -/
  idleEvt : Bool := false
deriving DecidableEq, Repr

/-- The legal builds: `W >= 1` (rule R5, U13). -/
def Build.wf (b : Build) : Bool := decide (1 ≤ b.w)

/-- The storage width of the header counter: `max(1, ceil(log2 W))` bits (rule R12). -/
def Build.headWidth (b : Build) : Nat := max 1 (Nat.clog 2 b.w)

/-- The three shared nets that an instance drives under its output enables (rules R134, R137). -/
inductive BusPin
  | csn
  | clk
  | mosi
deriving DecidableEq, Repr

/-- FREE VALUE (rule R178, U3; log entry 6): the level of a net that more than one instance drives. The spec gives no result, so
this has no body; the first argument is the count of changes of input levels so far. -/
opaque Config.contendedNet : Nat → BusPin → Level

end Sys2Proof
end

