-- ==== Sys2Proof/Syntax.lean ====
section
/-! DEFINITION. The operations of the block: one constructor of `Instr` per row of spec/opcode_table.json. -/

namespace Sys2Proof

/-- The operations of the opcode table, in its order. -/
inductive Instr
  /-- `A.RESET`, rule R101. -/
  | aReset
  /-- `IDLE.NOP`, rule R102. -/
  | idleNop
  /-- `IDLE.TRIG`, rule R103. -/
  | idleTrig
  /-- `IDLE.TRIG1`, rule R110. -/
  | idleTrig1
  /-- `HEAD.SHIFT`, rule R104. -/
  | headShift
  /-- `HEAD.LAST`, rule R105. -/
  | headLast
  /-- `HEAD.LAST0`, rule R106. -/
  | headLast0
  /-- `XFER.STEP`, rule R107. -/
  | xferStep
  /-- `XFER.LAST`, rule R108. -/
  | xferLast
  /-- `DET.CLEAR`, rule R83. -/
  | detClear
  /-- `DET.WAIT`, rule R87. -/
  | detWait
  /-- `DET.LATCH`, rule R84. -/
  | detLatch
  /-- `DET.HOLD`, rule R85. -/
  | detHold
  /-- `DET.PASS`, rule R81. -/
  | detPass
  /-- `DET.OUT`, rule R86. -/
  | detOut
  /-- `MOSI.REG`, rule R130. -/
  | mosiReg
  /-- `CSN.REG`, rule R131. -/
  | csnReg
  /-- `TDO.REG`, rule R132. -/
  | tdoReg
  /-- `CLK.INV`, rule R133. -/
  | clkInv
  /-- `OE.SEL`, rule R134. -/
  | oeSel
  /-- `MISO.IN`, rule R135. -/
  | misoIn
  /-- `AUX.HIGH`, rule R136. -/
  | auxHigh
  /-- The stream item `NOP`, rule R150. -/
  | nop
  /-- The stream item `XFER H : p[0] ... p[H-1]`, rule R151: the header value and the body bits in arrival order. -/
  | xfer (h : Nat) (body : List Bool)
deriving DecidableEq, Repr

/-- The nine Domain-A operations, of which exactly one executes at every rising edge (rule R66). -/
inductive AOp
  | reset
  | nop
  | trig
  | trig1
  | shift
  | last
  | last0
  | step
  | xlast
deriving DecidableEq, Repr

/-- The operation of the table that a Domain-A operation is. -/
def AOp.instr : AOp → Instr
  | .reset => .aReset
  | .nop => .idleNop
  | .trig => .idleTrig
  | .trig1 => .idleTrig1
  | .shift => .headShift
  | .last => .headLast
  | .last0 => .headLast0
  | .step => .xferStep
  | .xlast => .xferLast

/-- The four operations of the latched detector, of which exactly one executes at every rising edge (rule R67). -/
inductive DetOp
  | clear
  | wait
  | latch
  | hold
deriving DecidableEq, Repr

/-- The operation of the table that a detector operation is. -/
def DetOp.instr : DetOp → Instr
  | .clear => .detClear
  | .wait => .detWait
  | .latch => .detLatch
  | .hold => .detHold

end Sys2Proof
end

