-- ==== Sys2Proof/WellFormed.lean ====
section
/-! DEFINITION. Which operations exist in which build, and which frames a stream can spell. -/

namespace Sys2Proof

/-- The well-formed frames `XFER H : body` (rules R65, R68): `2^(W-1) <= H <= 2^W - 1` and exactly `H` body bits. -/
def frameWf (b : Build) (h : Nat) (body : List Bool) : Bool :=
  decide (2 ^ (b.w - 1) ≤ h) && decide (h ≤ 2 ^ b.w - 1) && decide (body.length = h)

/-- The operations of a build: IDLE.TRIG is for `W >= 2` (rule R103) and IDLE.TRIG1 for `W = 1` (rule R110); the four edge
operations and the output equation of the latched detector exist in LATCHED mode only and DET.PASS in PASSTHROUGH mode only
(rules R67, R81, R86); AUX.HIGH exists only when `HAS_AUX` (rule R136). -/
def Instr.wf (b : Build) : Instr → Bool
  | .aReset => true
  | .idleNop => true
  | .idleTrig => decide (2 ≤ b.w)
  | .idleTrig1 => decide (b.w = 1)
  | .headShift => true
  | .headLast => true
  | .headLast0 => true
  | .xferStep => true
  | .xferLast => true
  | .detClear => decide (b.detMode = .latched)
  | .detWait => decide (b.detMode = .latched)
  | .detLatch => decide (b.detMode = .latched)
  | .detHold => decide (b.detMode = .latched)
  | .detPass => decide (b.detMode = .passthrough)
  | .detOut => decide (b.detMode = .latched)
  | .mosiReg => true
  | .csnReg => true
  | .tdoReg => true
  | .clkInv => true
  | .oeSel => true
  | .misoIn => true
  | .auxHigh => b.hasAux
  | .nop => true
  | .xfer h body => frameWf b h body

end Sys2Proof
end

