-- ==== Sys2Proof/Decode.lean ====
section
/-! DEFINITION. The dispatch tables of rules R66 and R67, the stream grammar of rules R60 to R62, the decoder that reads them and
the encoder that writes them. -/

namespace Sys2Proof

/-! ## Dispatch tables -/

/-- One row of a dispatch table: an operation is selected when `(D & mask) == match` (rule R66). -/
structure Row (n : Nat) (α : Type) where
  pattern : BitVec n
  mask : BitVec n
  op : α

/-- The row selects the word. -/
def Row.hits {n : Nat} {α : Type} (r : Row n α) (w : BitVec n) : Bool := w &&& r.mask == r.pattern

/-- A word that the row selects: its fixed bits, and `free` at the bits it does not care about. -/
def Row.word {n : Nat} {α : Type} (r : Row n α) (free : BitVec n) : BitVec n := r.pattern ||| (free &&& ~~~r.mask)

/-- The row of a Domain-A operation (rule R66, columns match and mask). -/
def AOp.row (o : AOp) : Row 6 AOp :=
  match o with
  | .reset => ⟨0x20#6, 0x20#6, o⟩
  | .nop => ⟨0x00#6, 0x3C#6, o⟩
  | .trig => ⟨0x04#6, 0x3E#6, o⟩
  | .trig1 => ⟨0x06#6, 0x3E#6, o⟩
  | .shift => ⟨0x08#6, 0x3A#6, o⟩
  | .last => ⟨0x0A#6, 0x3B#6, o⟩
  | .last0 => ⟨0x0B#6, 0x3B#6, o⟩
  | .step => ⟨0x10#6, 0x3A#6, o⟩
  | .xlast => ⟨0x12#6, 0x3A#6, o⟩

/-- The dispatch table of rule R66. -/
def aTable : List (Row 6 AOp) :=
  [AOp.reset, .nop, .trig, .trig1, .shift, .last, .last0, .step, .xlast].map AOp.row

/-- The row of a detector operation (rule R67, columns match and mask). -/
def DetOp.row (o : DetOp) : Row 3 DetOp :=
  match o with
  | .clear => ⟨0x0#3, 0x4#3, o⟩
  | .wait => ⟨0x4#3, 0x7#3, o⟩
  | .latch => ⟨0x5#3, 0x7#3, o⟩
  | .hold => ⟨0x6#3, 0x6#3, o⟩

/-- The detector's dispatch table of rule R67. -/
def detTable : List (Row 3 DetOp) := [DetOp.clear, .wait, .latch, .hold].map DetOp.row

/-- Why the decoder gives no operation. -/
inductive Reject
  /-- No row of the dispatch table selects the word: a word whose `st` is `11`, a state that does not exist (rules R11, R66, U8). -/
  | noRow
  /-- The stream holds no bit. -/
  | emptyStream
  /-- The stream ends inside a header: the frame is cut (rule R65 (c)). -/
  | cutHeader
  /-- The stream ends inside a body: the frame is cut (rule R65 (c)). -/
  | cutBody
  /-- Bits follow the one item that was asked for. -/
  | moreItems
deriving DecidableEq, Repr

/-- The operation of the first row that selects the word. -/
def lookup {n : Nat} {α : Type} (table : List (Row n α)) (w : BitVec n) : Except Reject α :=
  match table.find? (fun r => r.hits w) with
  | some r => .ok r.op
  | none => .error .noRow

/-- The Domain-A operation that a dispatch word selects (rule R66). -/
def decodeA (w : DWord) : Except Reject AOp := lookup aTable w

/-- The detector operation that a dispatch word selects (rule R67). -/
def decodeDet (w : TWord) : Except Reject DetOp := lookup detTable w

/-! ## The stream on `tdi` -/

/-- The number that bits spell, the bit received first most significant (rules R41, R62). -/
def msbValue (bits : List Bool) : Nat := bits.foldl (fun v b => 2 * v + b.toNat) 0

/-- The low `n` bits of `v`, most significant first: a header of width `n` (rule R68). -/
def msbBits : Nat → Nat → List Bool
  | 0, _ => []
  | n + 1, v => v.testBit n :: msbBits n v

/-- The `tdi` bits of a frame in arrival order: the `W` header bits, then the body (rules R61, R68). -/
def frameBits (w h : Nat) (body : List Bool) : List Bool := msbBits w h ++ body

/-- The first item of a stream and the bits after it, by the grammar of rule R60: a `0` is a NOP; a `1` starts a frame whose
`W` header bits, the `1` included, spell the number `H` of body bits. -/
def decodeItem (w : Nat) : List Bool → Except Reject (Instr × List Bool)
  | [] => .error .emptyStream
  | false :: rest => .ok (.nop, rest)
  | true :: rest =>
    if rest.length < w - 1 then .error .cutHeader
    else
      let h := msbValue (true :: rest.take (w - 1))
      let after := rest.drop (w - 1)
      if after.length < h then .error .cutBody
      else .ok (.xfer h (after.take h), after.drop h)

/-- All the items of a stream that hold whole, in order, and the bits of a frame that is cut. `fuel` bounds the number of items;
the length of the stream is always enough, because every item has at least one bit. -/
def decodeItems (w : Nat) : Nat → List Bool → List Instr × List Bool
  | 0, bits => ([], bits)
  | fuel + 1, bits =>
    match decodeItem w bits with
    | .error _ => ([], bits)
    | .ok (i, rest) =>
      let (is, left) := decodeItems w fuel rest
      (i :: is, left)

/-- The stream grammar of rule R60: `stream := item*`. -/
def decodeStream (w : Nat) (bits : List Bool) : List Instr × List Bool := decodeItems w bits.length bits

/-! ## One decoder and one encoder -/

/-- The code of an operation that has one: a Domain-A dispatch word, a detector dispatch word, or the bits of a stream item. -/
inductive Code
  | edgeA (w : DWord)
  | edgeDet (w : TWord)
  | stream (bits : List Bool)
deriving DecidableEq, Repr

/-- The operation that a code stands for in a build. -/
def decode (b : Build) : Code → Except Reject Instr
  | .edgeA w => (decodeA w).map AOp.instr
  | .edgeDet w => (decodeDet w).map DetOp.instr
  | .stream bits =>
    match decodeItem b.w bits with
    | .error e => .error e
    | .ok (i, []) => .ok i
    | .ok (_, _ :: _) => .error .moreItems

/-- A code of an operation, with the bits of `free` where the operation's row does not care. The nine unconditional operations
have an empty mask and no word (rule R67): no code selects them. -/
def encode (b : Build) (free : BitVec 6) : Instr → Option Code
  | .aReset => some (.edgeA (AOp.reset.row.word free))
  | .idleNop => some (.edgeA (AOp.nop.row.word free))
  | .idleTrig => some (.edgeA (AOp.trig.row.word free))
  | .idleTrig1 => some (.edgeA (AOp.trig1.row.word free))
  | .headShift => some (.edgeA (AOp.shift.row.word free))
  | .headLast => some (.edgeA (AOp.last.row.word free))
  | .headLast0 => some (.edgeA (AOp.last0.row.word free))
  | .xferStep => some (.edgeA (AOp.step.row.word free))
  | .xferLast => some (.edgeA (AOp.xlast.row.word free))
  | .detClear => some (.edgeDet (DetOp.clear.row.word (free.setWidth 3)))
  | .detWait => some (.edgeDet (DetOp.wait.row.word (free.setWidth 3)))
  | .detLatch => some (.edgeDet (DetOp.latch.row.word (free.setWidth 3)))
  | .detHold => some (.edgeDet (DetOp.hold.row.word (free.setWidth 3)))
  | .detPass => none
  | .detOut => none
  | .mosiReg => none
  | .csnReg => none
  | .tdoReg => none
  | .clkInv => none
  | .oeSel => none
  | .misoIn => none
  | .auxHigh => none
  | .nop => some (.stream [false])
  | .xfer h body => some (.stream (frameBits b.w h body))

/-- The bits that shift a stream item in; an operation that is no stream item has none. -/
def itemBits (b : Build) (i : Instr) : List Bool :=
  match encode b 0#6 i with
  | some (.stream bits) => bits
  | _ => []

/-- The stream that spells the items, in order (rule R60). -/
def encodeStream (b : Build) (items : List Instr) : List Bool := items.flatMap (itemBits b)

/-! ## The unconditional operations -/

/-- What executes at every rising edge besides the dispatched operations (rule R67). -/
def alwaysAtRise : List Instr := [.mosiReg, .csnReg]

/-- What executes at every falling edge (rule R67). -/
def alwaysAtFall : List Instr := [.tdoReg]

/-- What holds at every instant in a build (rule R67): the output equations of its detector mode, the pins, and AUX.HIGH when
the build has the auxiliary outputs. -/
def atEveryInstant (b : Build) : List Instr :=
  [match b.detMode with | .passthrough => .detPass | .latched => .detOut]
    ++ [.clkInv, .oeSel, .misoIn] ++ (if b.hasAux then [.auxHigh] else [])

/-! ## The numbering of spec/opcode_table.json -/

/-- The operation that the table's numbering gives a word (log entry 10). A word of 6 bits, or of one byte, is a Domain-A
dispatch word; a word of 3 bits is a detector dispatch word; one bit `0` is the stream item NOP. -/
def decodeTableWord (nbits w : Nat) : Option Instr :=
  if nbits = 6 ∨ nbits = 8 then
    if w < 64 then (decode {} (.edgeA (BitVec.ofNat 6 w))).toOption else none
  else if nbits = 3 then
    if w < 8 then (decode {} (.edgeDet (BitVec.ofNat 3 w))).toOption else none
  else if nbits = 1 then
    if w = 0 then (decode {} (.stream [false])).toOption else none
  else none

end Sys2Proof
end

