-- ==== Sys2Proof/Machine/State.lean ====
section
/-! DEFINITION. The state of the machine: the build, the bridge instances with their registers, signals and pins (rule R10 and
rules R18 to R22), the shared input levels, and what the environment does next. Plain data throughout. -/

namespace Sys2Proof.Machine

/-- The FSM state (rule R11): three values and no fourth. -/
inductive Fsm
  | idle
  | header
  | transfer
deriving DecidableEq, Repr

/-- The latched detector's state (rule R17). -/
inductive Det
  | wait
  | held
deriving DecidableEq, Repr

/-- The JTAG-side flags of one instance in PASSTHROUGH mode (rule R18), under no law. -/
structure JtagIn where
  sel : Bool := false
  shift : Bool := false
  capture : Bool := false
deriving DecidableEq, Repr

/-- The raw flags of the boundary-scan primitive of one instance, the detector's inputs in LATCHED mode (rule R19), under no law.
`rti` is the separate idle-entry input of the parameter `IDLE_EVT` (rule R5, D12). No operation reads `tdo` (rule R19). -/
structure PrimIn where
  tdo : Bool := false
  shift : Bool := false
  ce : Bool := false
  rstn : Bool := false
  rti1 : Bool := false
  rti : Bool := false
deriving DecidableEq, Repr

/-- The detector's outputs (rules R80, R81, R86). -/
structure Signals where
  sel : Bool := false
  capture : Bool := false
  shift : Bool := false
deriving DecidableEq, Repr

/-- The combinational outputs of one instance (rules R133 to R136). The values of `mosi` and `cs_n` are the registers `mosiQ` and
`csnQ`, and `jtag.tdo` is `tdoQ` (rules R130 to R132). -/
structure Pins where
  clkO : Bool := true
  csnOe : Bool := false
  clkOe : Bool := false
  mosiOe : Bool := false
  misoOe : Bool := false
  wpnO : Bool := false
  wpnOe : Bool := false
  holdnO : Bool := false
  holdnOe : Bool := false
deriving DecidableEq, Repr

/-- One bridge instance: the eight registers of rule R10, its inputs of its own, the detector's outputs and the pins. `head` and
`bits` are unsigned integers (rule R7); their ranges `0 .. W-1` and `0 .. 2^W - 1` are the invariant of rule R111 (log entry 7). -/
structure Core where
  fsm : Fsm := .idle
  head : Nat
  bits : Nat := 0
  mosiQ : Bool := false
  csnQ : Bool := true
  tdoQ : Bool := false
  det : Det := .wait
  selected : Bool := false
  jt : JtagIn := {}
  pr : PrimIn := {}
  sig : Signals := {}
  pins : Pins := {}
deriving DecidableEq, Repr

/-- The input levels after a change: the shared ones, this instance's own, and those of the other instances in order (an instance
the list does not reach keeps its own). -/
structure Levels where
  tck : Bool
  tdi : Bool := false
  miso : Bool := false
  jt : JtagIn := {}
  pr : PrimIn := {}
  peers : List (JtagIn × PrimIn) := []
deriving DecidableEq, Repr

/-- What the environment does next (log entry 2): it changes the input levels, or it shifts in a stream item (rules R60, R68). -/
inductive Stim
  | levels (l : Levels)
  | nop
  | xfer (h : Nat) (body : List Bool)
deriving DecidableEq, Repr

/-- What the block shows the SPI device at a falling edge of `tck` (rule R138). -/
structure SpiSample where
  csn : Level
  mosi : Level
deriving DecidableEq, Repr

/-- The machine. -/
structure State where
  /-- The build parameters (rule R5): written by nothing. -/
  build : Build
  /-- The bridge instance that the operations act on. -/
  core : Core
  /-- The other instances on the same SPI bus (rule R178): `N_INST - 1` of them. -/
  peers : List Core
  /-- The level of `jtag.tck` now. -/
  tck : Bool
  /-- The level of `jtag.tdi` now. -/
  tdi : Bool
  /-- The level of `miso.i` now (rule R20). -/
  miso : Bool
  /-- The model's own: what the environment does next. -/
  env : List Stim
  /-- The model's own: the `miso` levels the device presents during the ticks of stream items; `0` when it is empty (rule R68). -/
  misoFeed : List Bool
  /-- The model's own: how many changes of input levels there have been; only the free value of a contended net reads it. -/
  instant : Nat
  /-- The model's own: what the host sampled on `tdo` at each rising edge (rule R138), newest first. -/
  hostLog : List Bool
  /-- The model's own: what the SPI device was shown at each falling edge (rule R138), newest first. -/
  spiLog : List SpiSample
deriving DecidableEq, Repr

/-- The faults: none. Rule R170 gives the step function no fault outcome, so nobody raises one. -/
inductive Fault
deriving DecidableEq, Repr

/-- The refusals. Rule R9: a model never needs one for the block itself. -/
inductive Refusal
  /-- Raised by `exec` for an instruction that has no meaning yet; safe. No arm of `exec` raises it. -/
  | notModelled (mnemonic : String)
  /-- Raised at a rising edge whose dispatch word no row of its table selects, that is `st = 11` (rules R11, R66, U8); safe. No
  state has such a word, so no step raises it. -/
  | noOperation
deriving DecidableEq, Repr

/-- `N_INST` (rule R178). -/
def State.nInst (s : State) : Nat := s.peers.length + 1

/-- An instance at power-up with the default `INIT` (rule R193): `bits`, `mosi_q` and `tdo_q` are arbitrary, so they are
arguments. All its inputs are low (log entry 5) and its signals and pins have settled. -/
def Core.powerUp (b : Build) (bits : Nat) (mosi tdo : Bool) : Core :=
  { head := b.w - 1, bits := bits, mosiQ := mosi, tdoQ := tdo,
    pins := { wpnO := b.hasAux, wpnOe := b.hasAux, holdnO := b.hasAux, holdnOe := b.hasAux } }

/-- The machine at power-up with the default `INIT` (rule R193), one instance, and `tck` low as in vector V30. -/
def State.powerUp (b : Build) (bits : Nat) (mosi tdo : Bool) : State :=
  { build := b, core := Core.powerUp b bits mosi tdo, peers := [], tck := false, tdi := false, miso := false,
    env := [], misoFeed := [], instant := 0, hostLog := [], spiLog := [] }

/-- The machine right after reset: power-up with the default `INIT` (rule R193) of the default build (rule R5; log entry 4), the
arbitrary registers at 0 (DESIGN CHOICE, log entry 3). -/
def State.reset : State := State.powerUp {} 0 false false

end Sys2Proof.Machine
end

