-- ==== Sys2Proof/Machine/Ops.lean ====
section
/-! DEFINITION. The named operations over registers, signals and pins, the two helper functions of rule R109, and how outcomes
follow each other. There is no memory (rule R40) and no exception to take or to return from (rules R170 to R174). -/

namespace Sys2Proof.Machine

/-! ## Outcomes in sequence -/

/-- Go on with the state of a next outcome; a stop stays. -/
def andThen {σ τ : Type} (o : Host.Outcome σ Fault Refusal) (f : σ → Host.Outcome τ Fault Refusal) :
    Host.Outcome τ Fault Refusal :=
  match o with
  | .next s => f s
  | .fault r => .fault r
  | .refused r => .refused r

/-! ## The arithmetic of the block (rule R111) -/

/-- `shl1_W(v, b)` (rules R7, R109): shift left by one, `b` enters at bit 0 and bit `W-1` falls off. -/
def shl1 (w v : Nat) (b : Bool) : Nat := (2 * v + b.toNat) % 2 ^ w

/-- What `finish(v)` writes (rule R109): `(fsm, head, bits)`. With the parameter `ZERO_HDR = ONE_TICK`, `finish(0)` is
`(TRANSFER, W-1, 0)` (D8). -/
def finish (b : Build) (v : Nat) : Fsm × Nat × Nat :=
  if v = 0 then
    match b.zeroHdr with
    | .idleDirect => (.idle, b.w - 1, 0)
    | .oneTick => (.transfer, b.w - 1, 0)
  else (.transfer, b.w - 1, v)

/-! ## Writing registers, signals and pins -/

/-- Write the three registers of the state machine (rules R11 to R13). -/
def State.putFsm (s : State) (f : Fsm) (head bits : Nat) : State :=
  { s with core := { s.core with fsm := f, head := head, bits := bits } }

/-- The edge that consumes the last header bit (rule R109). -/
def State.finishHeader (s : State) (v : Nat) : State :=
  s.putFsm (finish s.build v).1 (finish s.build v).2.1 (finish s.build v).2.2

/-- Write the detector's registers (rule R17). -/
def State.putDet (s : State) (d : Det) (selected : Bool) : State :=
  { s with core := { s.core with det := d, selected := selected } }

/-- Write `mosi_q` (rule R14). -/
def State.putMosi (s : State) (v : Bool) : State := { s with core := { s.core with mosiQ := v } }

/-- Write `csn_q` (rule R15). -/
def State.putCsn (s : State) (v : Bool) : State := { s with core := { s.core with csnQ := v } }

/-- Write `tdo_q` (rule R16). -/
def State.putTdo (s : State) (v : Bool) : State := { s with core := { s.core with tdoQ := v } }

/-- Drive the detector's outputs (rule R80). -/
def State.putSignals (s : State) (sel capture shift : Bool) : State :=
  { s with core := { s.core with sig := { sel := sel, capture := capture, shift := shift } } }

/-- Drive `clk.o` (rule R133). -/
def State.putClk (s : State) (v : Bool) : State :=
  { s with core := { s.core with pins := { s.core.pins with clkO := v } } }

/-- Drive the three output enables (rule R134). -/
def State.putEnables (s : State) (v : Bool) : State :=
  { s with core := { s.core with pins := { s.core.pins with csnOe := v, clkOe := v, mosiOe := v } } }

/-- Drive the output enable of `miso` (rule R135). -/
def State.putMisoOe (s : State) (v : Bool) : State :=
  { s with core := { s.core with pins := { s.core.pins with misoOe := v } } }

/-- Drive the write-protect and hold lines, with the given level and enable (rule R136). -/
def State.putAux (s : State) (level enable : Bool) : State :=
  { s with core := { s.core with pins :=
    { s.core.pins with wpnO := level, wpnOe := enable, holdnO := level, holdnOe := enable } } }

/-! ## Instances -/

/-- The state as another instance sees it: its own registers and flags, everything else shared (rule R178). -/
def State.focus (s : State) (c : Core) : State := { s with core := c }

/-- Run an operation in each of the given instances, on the same shared levels. -/
def overPeers (f : State → Host.Outcome State Fault Refusal) (s : State) :
    List Core → Host.Outcome (List Core) Fault Refusal
  | [] => .next []
  | c :: cs =>
    andThen (f (s.focus c)) fun t =>
    andThen (overPeers f s cs) fun ts => .next (t.core :: ts)

/-- Run an operation in every instance (rule R178: each has its own registers, and they share nothing but input levels). -/
def overAll (f : State → Host.Outcome State Fault Refusal) (s : State) : Host.Outcome State Fault Refusal :=
  andThen (f s) fun t =>
  andThen (overPeers f s s.peers) fun ps => .next { s with core := t.core, peers := ps }

/-! ## Input levels -/

/-- Give an instance its own input levels. -/
def Core.drive (c : Core) (jt : JtagIn) (pr : PrimIn) : Core := { c with jt := jt, pr := pr }

/-- Give the other instances theirs, in order; one that the list does not reach keeps its own. -/
def drivePeers : List Core → List (JtagIn × PrimIn) → List Core
  | [], _ => []
  | c :: cs, [] => c :: cs
  | c :: cs, f :: fs => c.drive f.1 f.2 :: drivePeers cs fs

/-- The state with the given input levels. -/
def State.drive (s : State) (l : Levels) : State :=
  { s with tck := l.tck, tdi := l.tdi, miso := l.miso, core := s.core.drive l.jt l.pr, peers := drivePeers s.peers l.peers }

end Sys2Proof.Machine
end

