-- ==== Sys2Proof/Machine/Operands.lean ====
section
/-! DEFINITION. What the operations read: the detector's view of its flags, and the levels on the pins and the shared nets. The
block has no operand of an instruction other than the header value and the body of a frame (rule R62). -/

namespace Sys2Proof.Machine

/-- `capturing = p.ce & ~p.shift` (rule R86). -/
def Core.capturing (c : Core) : Bool := c.pr.ce && !c.pr.shift

/-- `shifting = p.shift` (rule R86). -/
def Core.shifting (c : Core) : Bool := c.pr.shift

/-- The idle-entry event of the latched detector: `p.rti1` (rule R82), or `p.rti` in a build with the parameter `IDLE_EVT` (D12). -/
def idleEvent (b : Build) (c : Core) : Bool := if b.idleEvt then c.pr.rti else c.pr.rti1

/-! ## Pins (rules R8, R137) -/

/-- The level the block presents on a pin: its value when it is enabled, `Z` otherwise. -/
def pinLevel (oe o : Bool) : Level := if oe then Level.ofBool o else .z

/-- `pin(cs_n)`. -/
def Core.pinCsn (c : Core) : Level := pinLevel c.pins.csnOe c.csnQ

/-- `pin(clk)`. -/
def Core.pinClk (c : Core) : Level := pinLevel c.pins.clkOe c.pins.clkO

/-- `pin(mosi)`. -/
def Core.pinMosi (c : Core) : Level := pinLevel c.pins.mosiOe c.mosiQ

/-- `pin(miso)`: `miso.o` has no meaning (rule R135), so an enabled `miso` would present nothing this model knows. -/
def Core.pinMiso (c : Core) : Level := pinLevel c.pins.misoOe false

/-- `pin(wp_n)`. -/
def Core.pinWpn (c : Core) : Level := pinLevel c.pins.wpnOe c.pins.wpnO

/-- `pin(hold_n)`. -/
def Core.pinHoldn (c : Core) : Level := pinLevel c.pins.holdnOe c.pins.holdnO

/-- `jtag.tdo` (rule R132). -/
def Core.tdo (c : Core) : Bool := c.tdoQ

/-- What an instance shows the SPI device now. -/
def Core.spiSample (c : Core) : SpiSample := { csn := c.pinCsn, mosi := c.pinMosi }

/-! ## The shared nets (rules R137, R178) -/

/-- Enable and value of an instance's driver on a net. -/
def Core.driver (p : BusPin) (c : Core) : Bool × Bool :=
  match p with
  | .csn => (c.pins.csnOe, c.csnQ)
  | .clk => (c.pins.clkOe, c.pins.clkO)
  | .mosi => (c.pins.mosiOe, c.mosiQ)

/-- The level of a net with these drivers: `Z` when none is enabled, the value of the one that is, and `free` on contention. -/
def netLevel (free : Level) (drivers : List (Bool × Bool)) : Level :=
  match drivers.filter (fun d => d.1) with
  | [] => .z
  | [d] => Level.ofBool d.2
  | _ :: _ :: _ => free

/-- The level of a shared net now. On contention the spec gives none (U3): the free value `Config.contendedNet`. -/
def State.net (s : State) (p : BusPin) : Level :=
  netLevel (Config.contendedNet s.instant p) ((s.core :: s.peers).map (Core.driver p))

end Sys2Proof.Machine
end

