-- ==== Sys2Proof/Machine/Flags.lean ====
section
/-! DEFINITION. The conditions the operations test. The block holds no flag (rule R24): every condition is a combinational
function of the registers and inputs before the edge, and together they are the dispatch words of rules R66 and R67. -/

namespace Sys2Proof.Machine

/-- The label of the FSM state in the dispatch word (rules R11, R66). -/
def Fsm.label : Fsm → BitVec 2
  | .idle => 0b00#2
  | .header => 0b01#2
  | .transfer => 0b10#2

/-- The label of the detector's state (rule R67). -/
def Det.label : Det → Bool
  | .wait => false
  | .held => true

/-- `D[5]`: `rstA = selected_capture` (rules R66, R100). -/
def State.rstA (s : State) : Bool := s.core.sig.capture

/-- `D[2]`: `trig = selected_shift & tdi` (rule R66). -/
def State.trig (s : State) : Bool := s.core.sig.shift && s.tdi

/-- `D[1]`: `W == 1` in IDLE, `head <= 1` in HEADER, `bits <= 1` in TRANSFER (rule R66). -/
def State.last (s : State) : Bool :=
  match s.core.fsm with
  | .idle => decide (s.build.w = 1)
  | .header => decide (s.core.head ≤ 1)
  | .transfer => decide (s.core.bits ≤ 1)

/-- `D[0]`: `shl1_W(bits, tdi) == 0` in HEADER, `0` in IDLE and TRANSFER (rule R66). -/
def State.zero (s : State) : Bool :=
  match s.core.fsm with
  | .idle => false
  | .header => decide (shl1 s.build.w s.core.bits s.tdi = 0)
  | .transfer => false

/-- The Domain-A dispatch word before the edge (rule R66). -/
def State.dWord (s : State) : DWord :=
  BitVec.ofBool s.rstA ++ s.core.fsm.label ++ BitVec.ofBool s.trig ++ BitVec.ofBool s.last ++ BitVec.ofBool s.zero

/-- The detector's dispatch word before the edge (rule R67). -/
def State.tWord (s : State) : TWord :=
  BitVec.ofBool s.core.pr.rstn ++ BitVec.ofBool s.core.det.label ++ BitVec.ofBool (idleEvent s.build s.core)

end Sys2Proof.Machine
end

