-- ==== Sys2Proof/Machine/Bridge.lean ====
section
/-! DEFINITION. The nine Domain-A operations on `fsm`, `head` and `bits` (41_bridge_fsm.md). Which of them executes at an edge is
the dispatch word's matter (rule R66); each is here the effect its rule gives it (log entry 15). -/

namespace Sys2Proof.Machine

/-- `A.RESET` (rule R101): `bits` is not written. -/
def execAReset (s : State) : Host.Outcome State Fault Refusal := .next (s.putFsm .idle (s.build.w - 1) s.core.bits)

/-- `IDLE.NOP` (rule R102). -/
def execIdleNop (s : State) : Host.Outcome State Fault Refusal := .next (s.putFsm .idle s.core.head s.core.bits)

/-- `IDLE.TRIG` (rule R103): the trigger is the first header bit. -/
def execIdleTrig (s : State) : Host.Outcome State Fault Refusal :=
  .next (s.putFsm .header (s.build.w - 1) (shl1 s.build.w s.core.bits true))

/-- `IDLE.TRIG1` (rule R110): with `W = 1` the trigger is the whole header. -/
def execIdleTrig1 (s : State) : Host.Outcome State Fault Refusal :=
  .next (s.finishHeader (shl1 s.build.w s.core.bits true))

/-- `HEAD.SHIFT` (rule R104). -/
def execHeadShift (s : State) : Host.Outcome State Fault Refusal :=
  .next (s.putFsm .header (s.core.head - 1) (shl1 s.build.w s.core.bits s.tdi))

/-- `HEAD.LAST` (rule R105). -/
def execHeadLast (s : State) : Host.Outcome State Fault Refusal :=
  .next (s.finishHeader (shl1 s.build.w s.core.bits s.tdi))

/-- `HEAD.LAST0` (rule R106). -/
def execHeadLast0 (s : State) : Host.Outcome State Fault Refusal := .next (s.finishHeader 0)

/-- `XFER.STEP` (rule R107). -/
def execXferStep (s : State) : Host.Outcome State Fault Refusal :=
  .next (s.putFsm .transfer s.core.head (s.core.bits - 1))

/-- `XFER.LAST` (rule R108). -/
def execXferLast (s : State) : Host.Outcome State Fault Refusal := .next (s.putFsm .idle s.core.head 0)

end Sys2Proof.Machine
end

