-- ==== Sys2Proof/Machine/Datapath.lean ====
section
/-! DEFINITION. The output registers and the combinational pin operations (42_datapath.md). -/

namespace Sys2Proof.Machine

/-- `MOSI.REG` (rule R130), at every rising edge. -/
def execMosiReg (s : State) : Host.Outcome State Fault Refusal := .next (s.putMosi s.tdi)

/-- `CSN.REG` (rule R131), at every rising edge: low exactly when the state before the edge is TRANSFER. -/
def execCsnReg (s : State) : Host.Outcome State Fault Refusal := .next (s.putCsn (decide (s.core.fsm ≠ .transfer)))

/-- `TDO.REG` (rule R132), at every falling edge. -/
def execTdoReg (s : State) : Host.Outcome State Fault Refusal := .next (s.putTdo s.miso)

/-- `CLK.INV` (rule R133): `clk.o = ~tck`. -/
def execClkInv (s : State) : Host.Outcome State Fault Refusal := .next (s.putClk (!s.tck))

/-- `OE.SEL` (rule R134): the three enables are `sel`. -/
def execOeSel (s : State) : Host.Outcome State Fault Refusal := .next (s.putEnables s.core.sig.sel)

/-- `MISO.IN` (rule R135): `miso` is input only. -/
def execMisoIn (s : State) : Host.Outcome State Fault Refusal := .next (s.putMisoOe false)

/-- `AUX.HIGH` (rule R136): both lines are driven high. -/
def execAuxHigh (s : State) : Host.Outcome State Fault Refusal := .next (s.putAux true true)

end Sys2Proof.Machine
end

