-- ==== Sys2Proof/Machine/Detector.lean ====
section
/-! DEFINITION. The operations of the Chain Selection Detector (40_detector.md). -/

namespace Sys2Proof.Machine

/-- `DET.CLEAR` (rule R83): a TAP reset clears the selection. -/
def execDetClear (s : State) : Host.Outcome State Fault Refusal := .next (s.putDet .wait false)

/-- `DET.WAIT` (rule R87): still waiting for the idle-entry event. -/
def execDetWait (s : State) : Host.Outcome State Fault Refusal := .next (s.putDet .wait false)

/-- `DET.LATCH` (rule R84): the one sampling point; the captured value is `p.rti1`. -/
def execDetLatch (s : State) : Host.Outcome State Fault Refusal := .next (s.putDet .held s.core.pr.rti1)

/-- `DET.HOLD` (rule R85): the selection is held. -/
def execDetHold (s : State) : Host.Outcome State Fault Refusal := .next (s.putDet .held s.core.selected)

/-- `DET.PASS` (rule R81): the outputs follow the JTAG-side inputs. -/
def execDetPass (s : State) : Host.Outcome State Fault Refusal :=
  .next (s.putSignals s.core.jt.sel (s.core.jt.sel && s.core.jt.capture) (s.core.jt.sel && s.core.jt.shift))

/-- `DET.OUT` (rule R86): the outputs from the selection and the raw flags. -/
def execDetOut (s : State) : Host.Outcome State Fault Refusal :=
  .next (s.putSignals s.core.selected (s.core.selected && s.core.capturing) (s.core.selected && s.core.shifting))

end Sys2Proof.Machine
end

