-- ==== Sys2Proof/Machine/Edge.lean ====
section
/-! DEFINITION. What happens when input levels change: the two clock domains of rule R46, the combinational operations of rule
R67, and one tick as a rising edge followed by a falling one (rule R6). -/

namespace Sys2Proof.Machine

/-! ## Dispatch at a rising edge -/

/-- Execute a Domain-A operation. -/
def runA (o : AOp) (s : State) : Host.Outcome State Fault Refusal :=
  match o with
  | .reset => execAReset s
  | .nop => execIdleNop s
  | .trig => execIdleTrig s
  | .trig1 => execIdleTrig1 s
  | .shift => execHeadShift s
  | .last => execHeadLast s
  | .last0 => execHeadLast0 s
  | .step => execXferStep s
  | .xlast => execXferLast s

/-- Execute a detector operation. -/
def runDet (o : DetOp) (s : State) : Host.Outcome State Fault Refusal :=
  match o with
  | .clear => execDetClear s
  | .wait => execDetWait s
  | .latch => execDetLatch s
  | .hold => execDetHold s

/-- The Domain-A operation that the dispatch word selects (rule R66). -/
def edgeA (s : State) : Host.Outcome State Fault Refusal :=
  match decodeA s.dWord with
  | .ok o => runA o s
  | .error _ => .refused .noOperation

/-- The detector operation that the dispatch word selects, in LATCHED mode (rule R67); a PASSTHROUGH detector has no register. -/
def edgeDet (s : State) : Host.Outcome State Fault Refusal :=
  match s.build.detMode with
  | .passthrough => .next s
  | .latched =>
    match decodeDet s.tWord with
    | .ok o => runDet o s
    | .error _ => .refused .noOperation

/-! ## The two clock domains in one instance -/

/-- The rising edge in one instance (rules R46, R47, R67): the detector operation, the Domain-A operation, MOSI.REG and CSN.REG
all execute on the values before the edge, and each writes its own registers (rule R28), all together. -/
def riseOne (s : State) : Host.Outcome State Fault Refusal :=
  andThen (edgeDet s) fun d =>
  andThen (edgeA s) fun a =>
  andThen (execMosiReg s) fun m =>
  andThen (execCsnReg s) fun c =>
  .next { s with core := { s.core with
    det := d.core.det, selected := d.core.selected,
    fsm := a.core.fsm, head := a.core.head, bits := a.core.bits,
    mosiQ := m.core.mosiQ, csnQ := c.core.csnQ } }

/-- The falling edge in one instance: Domain B is TDO.REG (rules R46, R132). -/
def fallOne (s : State) : Host.Outcome State Fault Refusal := execTdoReg s

/-- The detector's output equation of the build's mode (rule R80). -/
def detOutputs (s : State) : Host.Outcome State Fault Refusal :=
  match s.build.detMode with
  | .passthrough => execDetPass s
  | .latched => execDetOut s

/-- AUX.HIGH, in a build that has the auxiliary outputs (rule R136). -/
def auxOutputs (s : State) : Host.Outcome State Fault Refusal :=
  if s.build.hasAux then execAuxHigh s else .next s

/-- The combinational operations of one instance (rule R67), the detector's outputs before the pins that read them. -/
def settleOne (s : State) : Host.Outcome State Fault Refusal :=
  andThen (detOutputs s) fun t =>
  andThen (execClkInv t) fun t =>
  andThen (execOeSel t) fun t =>
  andThen (execMisoIn t) fun t =>
  auxOutputs t

/-! ## All instances -/

/-- A rising edge of `tck`: the host samples `tdo` (rule R138), and every instance takes the edge. -/
def rise (s : State) : Host.Outcome State Fault Refusal :=
  andThen (overAll riseOne s) fun t => .next { t with hostLog := s.core.tdo :: s.hostLog }

/-- A falling edge of `tck`: the SPI device samples the pins (rule R138), and every instance takes the edge. -/
def fall (s : State) : Host.Outcome State Fault Refusal :=
  andThen (overAll fallOne s) fun t => .next { t with spiLog := s.core.spiSample :: s.spiLog }

/-- The edge, if any, that a change of `tck` to the given level is. -/
def clockEdge (tck : Bool) (s : State) : Host.Outcome State Fault Refusal :=
  if s.tck = false ∧ tck = true then rise s
  else if s.tck = true ∧ tck = false then fall s
  else .next s

/-- A change of input levels: the edge in it acts on the levels before it (rules R6, R47), then the levels are the new ones and
the combinational operations have followed them. -/
def applyLevels (l : Levels) (s : State) : Host.Outcome State Fault Refusal :=
  andThen (clockEdge l.tck s) fun t =>
  andThen (overAll settleOne (t.drive l)) fun u =>
  .next { u with instant := s.instant + 1 }

/-! ## Ticks -/

/-- The inputs of one tick (rule R68), with its defaults; `pr` are the raw flags of a LATCHED build, by default those of a tick in
Shift-DR (log entry 9). -/
structure TickLine where
  sel : Bool := true
  shift : Bool := true
  capture : Bool := false
  tdi : Bool := false
  miso : Bool := false
  pr : PrimIn := { shift := true, ce := true, rstn := true }
deriving DecidableEq, Repr

/-- The levels of a tick line with the given `tck` and `miso`. -/
def TickLine.levels (t : TickLine) (tck miso : Bool) : Levels :=
  { tck := tck, tdi := t.tdi, miso := miso, jt := { sel := t.sel, shift := t.shift, capture := t.capture }, pr := t.pr }

/-- The three changes of input levels that make a tick, from the `miso` level before it (rule R48): with `tck` low the host sets
`tdi` and the flags; `tck` rises and the device changes `miso`; `tck` falls. -/
def TickLine.changes (t : TickLine) (miso : Bool) : List Levels :=
  [t.levels false miso, t.levels true t.miso, t.levels false t.miso]

/-- The changes of input levels that several ticks make, from the `miso` level before them. -/
def tickChanges : Bool → List TickLine → List Levels
  | _, [] => []
  | miso, t :: ts => t.changes miso ++ tickChanges t.miso ts

/-- Several changes of input levels in order. -/
def applyAll : List Levels → State → Host.Outcome State Fault Refusal
  | [], s => .next s
  | l :: ls, s => andThen (applyLevels l s) fun t => applyAll ls t

/-- One tick: the rising-edge step and then the falling-edge step (rules R6, R46). -/
def runTick (t : TickLine) (s : State) : Host.Outcome State Fault Refusal := applyAll (t.changes s.miso) s

/-- Several ticks in order. -/
def runTicks : List TickLine → State → Host.Outcome State Fault Refusal
  | [], s => .next s
  | t :: ts, s => andThen (runTick t s) fun u => runTicks ts u

end Sys2Proof.Machine
end

