-- ==== Sys2Proof/Machine/Frames.lean ====
section
/-! DEFINITION. The stream items NOP and XFER (43_frames.md) and the pseudo-items of rule R69. -/

namespace Sys2Proof.Machine

/-- The tick that shifts in one bit of a stream item (rule R68): the defaults of a tick line, and on `miso` what the device
presents next (`0` when the state says nothing of it). -/
def itemTick (bit : Bool) (s : State) : Host.Outcome State Fault Refusal :=
  runTick { tdi := bit, miso := s.misoFeed.headD false } { s with misoFeed := s.misoFeed.tail }

/-- The ticks that shift in the bits of a stream item, in arrival order. -/
def itemTicks : List Bool → State → Host.Outcome State Fault Refusal
  | [], s => .next s
  | b :: bs, s => andThen (itemTick b s) fun t => itemTicks bs t

/-- `NOP` (rule R150): one tick with `tdi = 0`. -/
def execNop (s : State) : Host.Outcome State Fault Refusal := itemTick false s

/-- `XFER H : body` (rule R151): the `W` header bits of `H`, then the body, one tick each. -/
def execXfer (h : Nat) (body : List Bool) (s : State) : Host.Outcome State Fault Refusal :=
  itemTicks (frameBits s.build.w h body) s

/-! ## Pseudo-items (rule R69) -/

/-- `CAPTURE`: one tick in Capture-DR. -/
def TickLine.capturing : TickLine := { shift := false, capture := true, pr := { ce := true, rstn := true } }

/-- `DESELECT n`: ticks with the chain not selected. In a LATCHED build only a TAP reset deselects (rule R171), so the raw flags
are those of a TAP reset. -/
def TickLine.deselected (n : Nat) : List TickLine :=
  List.replicate n { sel := false, shift := false, pr := {} }

/-- `PAUSE n`: ticks outside Shift-DR with the chain still selected. -/
def TickLine.paused (n : Nat) : List TickLine := List.replicate n { shift := false, pr := { rstn := true } }

end Sys2Proof.Machine
end

