-- ==== Sys2Proof/Machine/Dispatch.lean ====
section
/-! DEFINITION. The dispatch of instructions to their meanings: one arm per constructor of `Instr`. -/

namespace Sys2Proof.Machine

def exec (i : Instr) (s : State) : Host.Outcome State Fault Refusal :=
  match i with
  | .aReset => Sys2Proof.Machine.execAReset s
  | .idleNop => Sys2Proof.Machine.execIdleNop s
  | .idleTrig => Sys2Proof.Machine.execIdleTrig s
  | .idleTrig1 => Sys2Proof.Machine.execIdleTrig1 s
  | .headShift => Sys2Proof.Machine.execHeadShift s
  | .headLast => Sys2Proof.Machine.execHeadLast s
  | .headLast0 => Sys2Proof.Machine.execHeadLast0 s
  | .xferStep => Sys2Proof.Machine.execXferStep s
  | .xferLast => Sys2Proof.Machine.execXferLast s
  | .detClear => Sys2Proof.Machine.execDetClear s
  | .detWait => Sys2Proof.Machine.execDetWait s
  | .detLatch => Sys2Proof.Machine.execDetLatch s
  | .detHold => Sys2Proof.Machine.execDetHold s
  | .detPass => Sys2Proof.Machine.execDetPass s
  | .detOut => Sys2Proof.Machine.execDetOut s
  | .mosiReg => Sys2Proof.Machine.execMosiReg s
  | .csnReg => Sys2Proof.Machine.execCsnReg s
  | .tdoReg => Sys2Proof.Machine.execTdoReg s
  | .clkInv => Sys2Proof.Machine.execClkInv s
  | .oeSel => Sys2Proof.Machine.execOeSel s
  | .misoIn => Sys2Proof.Machine.execMisoIn s
  | .auxHigh => Sys2Proof.Machine.execAuxHigh s
  | .nop => Sys2Proof.Machine.execNop s
  | .xfer h body => Sys2Proof.Machine.execXfer h body s

end Sys2Proof.Machine
end

