-- ==== Sys2Proof/Machine/Step.lean ====
section
/-! DEFINITION. One step of the machine, and how the host's tests place an operation where the next step runs it. -/

namespace Sys2Proof.Machine

/-- One step: the environment's next doing (log entry 2). A change of input levels runs the edge it contains and settles the
combinational operations; a stream item runs whole. With nothing to come, `tck` is still and nothing happens (rule R180). -/
def step (s : State) : Host.Outcome State Fault Refusal :=
  match s.env with
  | [] => .next s
  | .levels l :: rest => applyLevels l { s with env := rest }
  | .nop :: rest => exec .nop { s with env := rest }
  | .xfer h body :: rest => exec (.xfer h body) { s with env := rest }

/-! ## Placing an operation (log entries 10, 11 and 21) -/

/-- The FSM state of a dispatch word's label; `11` does not exist and only A.RESET, which does not read it, ignores that. -/
def fsmOfLabel (st : BitVec 2) : Fsm :=
  if st = 0b01#2 then .header else if st = 0b10#2 then .transfer else .idle

/-- The header width under which the dispatch word can occur: 1 for `last` in IDLE, otherwise the build's own unless it is too
small for a `head` or a `bits` of 2. -/
def widthFor (w : Nat) (f : Fsm) (last : Bool) : Nat :=
  match f with
  | .idle => if last then 1 else if w < 2 then 2 else w
  | .header => if w < 3 then 3 else w
  | .transfer => if w < 2 then 2 else w

/-- The combinational signals and pins of the state, settled. -/
def State.settled (s : State) : State :=
  match overAll settleOne s with
  | .next t => t
  | .fault _ => s
  | .refused _ => s

/-- The state with a rising edge of `tck`, and nothing else, as the next change of input levels. -/
def State.beforeRise (s : State) : State :=
  let t := { s with tck := false }.settled
  { t with env := .levels { tck := true, tdi := t.tdi, miso := t.miso, jt := t.core.jt, pr := t.core.pr } :: t.env }

/-- The state before a rising edge at which the dispatch word selects what `w` selects. -/
def State.placeA (s : State) (w : DWord) : State :=
  let f := fsmOfLabel (w.extractLsb' 3 2)
  let last := w.getLsbD 1
  let zero := w.getLsbD 0 && decide (f = .header)
  let bit := w.getLsbD 2 && !zero
  let head := if f = .header then (if last then 1 else 2) else widthFor s.build.w f last - 1
  let bits := if f = .transfer then (if last then 1 else 2) else if f = .header && !zero then 1 else 0
  State.beforeRise { s with
    build := { s.build with detMode := .passthrough, w := widthFor s.build.w f last }
    tdi := bit
    core := { s.core with
      fsm := f, head := head, bits := bits,
      jt := { sel := true, shift := bit, capture := w.getLsbD 5 } } }

/-- The state before a rising edge at which the detector's dispatch word is `w`. -/
def State.placeDet (s : State) (w : TWord) : State :=
  State.beforeRise { s with
    build := { s.build with detMode := .latched }
    core := { s.core with
      det := if w.getLsbD 1 then .held else .wait
      pr := { s.core.pr with rstn := w.getLsbD 2, rti1 := w.getLsbD 0, rti := w.getLsbD 0 } } }

/-- The operation that spec/opcode_table.json's numbering gives the word, placed so that the next step runs it. A word that
`decodeTableWord` gives no operation places nothing. -/
def State.withFetchWord (s : State) (nbits w : Nat) : State :=
  match decodeTableWord nbits w with
  | none => s
  | some _ =>
    if nbits = 3 then s.placeDet (BitVec.ofNat 3 w)
    else if nbits = 1 then { s with env := .nop :: s.env }
    else s.placeA (BitVec.ofNat 6 w)

end Sys2Proof.Machine
end

