-- ==== Sys2Proof/Safety.lean ====
section
/-! DEFINITION. The terms that statements about the machine use: safe runs, the equations that hold at every instant, the ranges
and invariants of the registers, the moments of a tick, and the listing of 41_bridge_fsm.md section 8. -/

namespace Sys2Proof.Machine

/-- A run of `n` steps that stops nowhere. -/
def SafeRun (n : Nat) (s : State) : Prop := ∃ t : State, Host.Core.run Sys2Proof.core n s = .next t

/-- Something holds of every instance on the bus. -/
def State.Everywhere (s : State) (P : Core → Prop) : Prop := P s.core ∧ ∀ c ∈ s.peers, P c

/-- Every instance on the bus, before, is related to the same instance after. -/
def State.EachTo (s t : State) (R : Core → Core → Prop) : Prop :=
  R s.core t.core ∧ t.peers.length = s.peers.length ∧
  ∀ (i : Nat) (c : Core), s.peers[i]? = some c → ∃ c', t.peers[i]? = some c' ∧ R c c'

/-! ## What holds at every instant -/

/-- The detector's outputs by the equations of rules R81 and R86. -/
def Core.detSignals (b : Build) (c : Core) : Signals :=
  match b.detMode with
  | .passthrough => { sel := c.jt.sel, capture := c.jt.sel && c.jt.capture, shift := c.jt.sel && c.jt.shift }
  | .latched =>
    { sel := c.selected, capture := c.selected && (c.pr.ce && !c.pr.shift), shift := c.selected && c.pr.shift }

/-- The combinational assignments of one instance: rules R81 or R86, R133, R134, R135, and R136 in a build with `HAS_AUX`. -/
def Core.Settled (b : Build) (tck : Bool) (c : Core) : Prop :=
  c.sig = c.detSignals b ∧ c.pins.clkO = !tck ∧
  c.pins.csnOe = c.sig.sel ∧ c.pins.clkOe = c.sig.sel ∧ c.pins.mosiOe = c.sig.sel ∧ c.pins.misoOe = false ∧
  (b.hasAux = true → c.pins.wpnO = true ∧ c.pins.wpnOe = true ∧ c.pins.holdnO = true ∧ c.pins.holdnOe = true)

/-- They hold in every instance. -/
def State.Settled (s : State) : Prop := s.Everywhere (Core.Settled s.build s.tck)

/-! ## Ranges and invariants -/

/-- The ranges of the two counters (rules R12, R13). -/
def Core.InRange (b : Build) (c : Core) : Prop := c.head ≤ b.w - 1 ∧ c.bits ≤ 2 ^ b.w - 1

/-- The invariants of rule R111, and in HEADER the place of the trigger bit in the accumulator (rules R106, R112 (b)). -/
def Core.Counting (b : Build) (c : Core) : Prop :=
  c.InRange b ∧
  match c.fsm with
  | .idle => c.head = b.w - 1
  | .header => 2 ≤ b.w ∧ 1 ≤ c.head ∧ c.bits.testBit (b.w - 1 - c.head) = true
  | .transfer => 1 ≤ c.bits ∧ c.head = b.w - 1

/-- They hold in every instance. -/
def State.Counting (s : State) : Prop := s.Everywhere (Core.Counting s.build)

/-- The invariant of rule R17: `selected` implies `det = HELD`. -/
def Core.SelectedIsHeld (c : Core) : Prop := c.selected = true → c.det = .held

/-! ## Moments -/

/-- The next doing of the environment is a rising edge of `tck`: the state is the one immediately before `R_k` (rule R6). -/
def BeforeRise (s : State) (l : Levels) (rest : List Stim) : Prop :=
  s.env = .levels l :: rest ∧ s.tck = false ∧ l.tck = true

/-- The next doing of the environment is a falling edge of `tck`: the state is the one immediately before `F_k` (rule R6). -/
def BeforeFall (s : State) (l : Levels) (rest : List Stim) : Prop :=
  s.env = .levels l :: rest ∧ s.tck = true ∧ l.tck = false

/-- The next doing of the environment changes levels without an edge of `tck`. -/
def BeforeChange (s : State) (l : Levels) (rest : List Stim) : Prop :=
  s.env = .levels l :: rest ∧ l.tck = s.tck

/-- `v` is the machine immediately before the rising edge of tick `k` when the ticks `ts` run from `s` (rule R6: `x_k` is what a
register holds in `v`, `u_k` the level of an input in `v`). -/
def AtTick (s : State) (ts : List TickLine) (k : Nat) (v : State) : Prop :=
  ∃ u t, ts[k]? = some t ∧ runTicks (ts.take k) s = .next u ∧ applyLevels (t.levels false u.miso) u = .next v

/-- What a rising edge leaves in the registers of the instance in focus: the operations that the dispatch words decode to, MOSI.REG
and CSN.REG, each executed on the state before the edge (rules R46, R47, R66, R67). -/
def RisenFrom (s : State) (c : Core) : Prop :=
  (∃ i t, decode s.build (.edgeA s.dWord) = .ok i ∧ exec i s = .next t ∧
    c.fsm = t.core.fsm ∧ c.head = t.core.head ∧ c.bits = t.core.bits) ∧
  (∃ t, exec .mosiReg s = .next t ∧ c.mosiQ = t.core.mosiQ) ∧
  (∃ t, exec .csnReg s = .next t ∧ c.csnQ = t.core.csnQ) ∧
  (s.build.detMode = .latched → ∃ i t, decode s.build (.edgeDet s.tWord) = .ok i ∧ exec i s = .next t ∧
    c.det = t.core.det ∧ c.selected = t.core.selected) ∧
  (s.build.detMode = .passthrough → c.det = s.core.det ∧ c.selected = s.core.selected) ∧
  c.tdoQ = s.core.tdoQ

/-- The input levels after a change are the new ones: those that the instances share, those of the instance in focus, and those of each
other instance, in order; an instance that the change does not reach keeps its own. -/
def TakesLevels (s t : State) (l : Levels) : Prop :=
  t.tck = l.tck ∧ t.tdi = l.tdi ∧ t.miso = l.miso ∧ t.core.jt = l.jt ∧ t.core.pr = l.pr ∧
  ∀ (i : Nat) (c : Core), s.peers[i]? = some c → ∃ c', t.peers[i]? = some c' ∧
    (∀ f, l.peers[i]? = some f → c'.jt = f.1 ∧ c'.pr = f.2) ∧ (l.peers[i]? = none → c'.jt = c.jt ∧ c'.pr = c.pr)

/-- The ticks are one whole frame with the header value `h`, by the precondition of rule R151: from IDLE the first one takes a trigger,
the `W` header bits spell `h`, `h` body bits follow, and none of the ticks is reset. -/
def FrameTicks (s : State) (ts : List TickLine) (h : Nat) : Prop :=
  s.build.wf = true ∧ s.tck = false ∧ s.core.fsm = .idle ∧ ts.length = s.build.w + h ∧
  h = msbValue ((ts.take s.build.w).map TickLine.tdi) ∧
  (∃ v, AtTick s ts 0 v ∧ (v.core.sig.shift && v.tdi) = true) ∧
  ∀ k v, AtTick s ts k v → v.core.sig.capture = false

/-- The same registers. -/
def SameRegisters (c c' : Core) : Prop :=
  c'.fsm = c.fsm ∧ c'.head = c.head ∧ c'.bits = c.bits ∧ c'.mosiQ = c.mosiQ ∧ c'.csnQ = c.csnQ ∧ c'.tdoQ = c.tdoQ ∧
  c'.det = c.det ∧ c'.selected = c.selected

/-- The premise of rule R178: at most one instance on the bus has its output enables asserted. -/
def State.Exclusive (s : State) : Prop := ((s.core :: s.peers).filter (fun c => c.pins.csnOe)).length ≤ 1

/-! ## The rising-edge step in one listing -/

/-- The listing of 41_bridge_fsm.md section 8, with `finish` of rule R109. -/
def stepA (b : Build) (fsm : Fsm) (head bits : Nat) (capture shift tdi : Bool) : Fsm × Nat × Nat :=
  if capture then (.idle, b.w - 1, bits)
  else
    match fsm with
    | .idle =>
      if shift && tdi then
        if b.w = 1 then finish b (shl1 b.w bits true) else (.header, b.w - 1, shl1 b.w bits true)
      else (.idle, head, bits)
    | .header =>
      if head ≤ 1 then finish b (shl1 b.w bits tdi) else (.header, head - 1, shl1 b.w bits tdi)
    | .transfer => if bits ≤ 1 then (.idle, head, 0) else (.transfer, head, bits - 1)

/-- The tagged variant that rule R113 recommends in place of the registers `fsm`, `head` and `bits`. -/
inductive Variant
  | idle
  | header (remaining acc : Nat)
  | transfer (remaining : Nat)
deriving DecidableEq, Repr

/-- What the last header bit does to the variant: `finish` of rule R109. -/
def Variant.finish (b : Build) (v : Nat) : Variant :=
  if v = 0 then
    match b.zeroHdr with
    | .idleDirect => .idle
    | .oneTick => .transfer 0
  else .transfer v

/-- The rising-edge step on the variant (rules R101 to R110, R113); a header starts from an empty accumulator. -/
def Variant.next (b : Build) (v : Variant) (capture shift tdi : Bool) : Variant :=
  if capture then .idle
  else
    match v with
    | .idle =>
      if shift && tdi then
        if b.w = 1 then Variant.finish b 1 else .header (b.w - 1) 1
      else .idle
    | .header remaining acc =>
      if remaining ≤ 1 then Variant.finish b (shl1 b.w acc tdi) else .header (remaining - 1) (shl1 b.w acc tdi)
    | .transfer remaining => if remaining ≤ 1 then .idle else .transfer (remaining - 1)

/-- The map of rule R113 as a relation: IDLE forgets both counters, HEADER keeps `head` and the part of the accumulator shifted in
since the trigger (its low `W - head` bits), TRANSFER keeps `bits`. -/
def Variant.Of (b : Build) (c : Core) (v : Variant) : Prop :=
  match c.fsm, v with
  | .idle, .idle => True
  | .header, .header remaining acc =>
    remaining = c.head ∧ c.head ≤ b.w - 1 ∧ acc % 2 ^ (b.w - c.head) = c.bits % 2 ^ (b.w - c.head)
  | .transfer, .transfer remaining => remaining = c.bits
  | _, _ => False

end Sys2Proof.Machine
end

