-- ==== Sys2Proof/Certificates/Slice0/Obligations.lean ====
section
/-! DEFINITION. The statements for the provers. Each docstring names the rule or the section it rests on. -/

open Sys2Proof Sys2Proof.Machine

/-! ## The operations -/

/-- 41_bridge_fsm.md section 2 (rule R101, with the spec's decisions D4 and D5). A.RESET writes `fsm` and `head` and nothing else;
it is the selected operation exactly when `selected_capture` is true, whatever else holds; at such an edge the frame is cut, chip
select takes its ordinary update and is high after the next rising edge; and a chain that is not selected resets nothing. -/
def Obligations.DomainAResetOperation : Prop :=
  (∀ s : State, exec .aReset s = .next { s with core := { s.core with fsm := .idle, head := s.build.w - 1 } }) ∧
  (∀ s : State, decode s.build (.edgeA s.dWord) = .ok .aReset ↔ s.core.sig.capture = true) ∧
  (∀ (s t : State) l rest, BeforeRise s l rest → s.core.sig.capture = true → step s = .next t →
    t.core.fsm = .idle ∧ t.core.head = s.build.w - 1 ∧ t.core.bits = s.core.bits ∧
    t.core.mosiQ = s.tdi ∧ t.core.csnQ = decide (s.core.fsm ≠ .transfer)) ∧
  (∀ (s t : State) l rest, BeforeRise s l rest → s.core.fsm = .idle → step s = .next t → t.core.csnQ = true) ∧
  (∀ s : State, s.Settled → s.core.sig.sel = false → s.core.sig.capture = false)

/-- Rules R102, R103. The operations IDLE.NOP and IDLE.TRIG: what each writes, and exactly when each is selected. The pin
registers take their updates and the SPI clock falls; a header begun with any accumulator ends, after the trigger and `W - 1`
further bits, in a value in which nothing of the old accumulator is left. -/
def Obligations.IdleOperations : Prop :=
  (∀ s : State, exec .idleNop s = .next { s with core := { s.core with fsm := .idle } }) ∧
  (∀ s : State, exec .idleTrig s = .next { s with core := { s.core with
    fsm := .header, head := s.build.w - 1, bits := shl1 s.build.w s.core.bits true } }) ∧
  (∀ s : State, decode s.build (.edgeA s.dWord) = .ok .idleNop ↔
    s.core.sig.capture = false ∧ s.core.fsm = .idle ∧ (s.core.sig.shift && s.tdi) = false) ∧
  (∀ s : State, decode s.build (.edgeA s.dWord) = .ok .idleTrig ↔
    s.core.sig.capture = false ∧ s.core.fsm = .idle ∧ (s.core.sig.shift && s.tdi) = true ∧ s.build.w ≠ 1) ∧
  (∀ (s t : State) l rest, BeforeRise s l rest → s.core.fsm = .idle → step s = .next t →
    t.core.mosiQ = s.tdi ∧ t.core.csnQ = true ∧ t.core.pins.clkO = false) ∧
  (∀ (w v v' : Nat) (bits : List Bool), 1 ≤ w → bits.length = w - 1 →
    bits.foldl (shl1 w) (shl1 w v true) = bits.foldl (shl1 w) (shl1 w v' true))

/-- 41_bridge_fsm.md section 3 (rule R110, the spec's decision D17). IDLE.TRIG1: with a one-bit header the trigger is the whole
header, so that the machine goes from IDLE to TRANSFER for one tick and never enters HEADER. -/
def Obligations.OneBitHeader : Prop :=
  (∀ s : State, s.build.w = 1 →
    exec .idleTrig1 s = .next { s with core := { s.core with fsm := .transfer, head := 0, bits := 1 } }) ∧
  (∀ s : State, decode s.build (.edgeA s.dWord) = .ok .idleTrig1 ↔
    s.core.sig.capture = false ∧ s.core.fsm = .idle ∧ (s.core.sig.shift && s.tdi) = true ∧ s.build.w = 1) ∧
  (∀ (s t : State) l rest, BeforeRise s l rest → s.build.w = 1 → s.core.fsm = .idle → step s = .next t →
    t.core.fsm = if s.core.sig.shift && s.tdi && !s.core.sig.capture then .transfer else .idle)

/-- 41_bridge_fsm.md section 4 (rules R104, R105, R106, with the spec's decisions D8 and D18). The three operations of HEADER:
what each writes, and exactly when each is selected. `selected_shift` is not read, and `head = 0` is treated like `head = 1`.
ONE_TICK is read as log entry 22 says. Under the invariants of the counters the value of a complete header is at least `2^(W-1)`,
so that HEAD.LAST0 is never selected. -/
def Obligations.HeaderOperations : Prop :=
  (∀ s : State, exec .headShift s = .next { s with core := { s.core with
    fsm := .header, head := s.core.head - 1, bits := shl1 s.build.w s.core.bits s.tdi } }) ∧
  (∀ s : State, shl1 s.build.w s.core.bits s.tdi ≠ 0 →
    exec .headLast s = .next { s with core := { s.core with
      fsm := .transfer, head := s.build.w - 1, bits := shl1 s.build.w s.core.bits s.tdi } }) ∧
  (∀ s : State, shl1 s.build.w s.core.bits s.tdi = 0 → exec .headLast s = exec .headLast0 s) ∧
  (∀ s : State, s.build.zeroHdr = .idleDirect →
    exec .headLast0 s = .next { s with core := { s.core with fsm := .idle, head := s.build.w - 1, bits := 0 } }) ∧
  (∀ s : State, s.build.zeroHdr = .oneTick →
    exec .headLast0 s = .next { s with core := { s.core with fsm := .transfer, head := s.build.w - 1, bits := 0 } }) ∧
  (∀ s : State, decode s.build (.edgeA s.dWord) = .ok .headShift ↔
    s.core.sig.capture = false ∧ s.core.fsm = .header ∧ 2 ≤ s.core.head) ∧
  (∀ s : State, decode s.build (.edgeA s.dWord) = .ok .headLast ↔
    s.core.sig.capture = false ∧ s.core.fsm = .header ∧ s.core.head ≤ 1 ∧ shl1 s.build.w s.core.bits s.tdi ≠ 0) ∧
  (∀ s : State, decode s.build (.edgeA s.dWord) = .ok .headLast0 ↔
    s.core.sig.capture = false ∧ s.core.fsm = .header ∧ s.core.head ≤ 1 ∧ shl1 s.build.w s.core.bits s.tdi = 0) ∧
  (∀ s : State, s.core.Counting s.build → s.core.fsm = .header → s.core.head ≤ 1 →
    2 ^ (s.build.w - 1) ≤ shl1 s.build.w s.core.bits s.tdi ∧ decode s.build (.edgeA s.dWord) ≠ .ok .headLast0)

/-- 41_bridge_fsm.md section 5 (rules R107, R108, with the spec's decisions D8 and D18). The two operations of TRANSFER: what each
writes, and exactly when each is selected. Neither `tdi` nor the selection is read, and `bits = 0` is treated like `bits = 1`. -/
def Obligations.TransferOperations : Prop :=
  (∀ s : State, exec .xferStep s = .next { s with core := { s.core with fsm := .transfer, bits := s.core.bits - 1 } }) ∧
  (∀ s : State, exec .xferLast s = .next { s with core := { s.core with fsm := .idle, bits := 0 } }) ∧
  (∀ s : State, decode s.build (.edgeA s.dWord) = .ok .xferStep ↔
    s.core.sig.capture = false ∧ s.core.fsm = .transfer ∧ 2 ≤ s.core.bits) ∧
  (∀ s : State, decode s.build (.edgeA s.dWord) = .ok .xferLast ↔
    s.core.sig.capture = false ∧ s.core.fsm = .transfer ∧ s.core.bits ≤ 1)

/-- Rules R83, R84, R85. The operations DET.CLEAR, DET.LATCH and DET.HOLD of a build with the spec's detector inputs: what each
writes (the detector's two registers and no other), exactly when each is selected, and that the output enables follow the new
selection from immediately after the edge. -/
def Obligations.DetectorOperations : Prop :=
  (∀ s : State, exec .detClear s = .next { s with core := { s.core with det := .wait, selected := false } }) ∧
  (∀ s : State, exec .detLatch s = .next { s with core := { s.core with det := .held, selected := s.core.pr.rti1 } }) ∧
  (∀ s : State, exec .detHold s = .next { s with core := { s.core with det := .held } }) ∧
  (∀ s : State, decode s.build (.edgeDet s.tWord) = .ok .detClear ↔ s.core.pr.rstn = false) ∧
  (∀ s : State, s.build.idleEvt = false → (decode s.build (.edgeDet s.tWord) = .ok .detLatch ↔
    s.core.pr.rstn = true ∧ s.core.det = .wait ∧ s.core.pr.rti1 = true)) ∧
  (∀ s : State, decode s.build (.edgeDet s.tWord) = .ok .detHold ↔ s.core.pr.rstn = true ∧ s.core.det = .held) ∧
  (∀ (s t : State) l rest, s.build.detMode = .latched → s.build.idleEvt = false → BeforeRise s l rest → step s = .next t →
    (s.core.pr.rstn = false → t.core.det = .wait ∧ t.core.selected = false ∧ t.core.pins.csnOe = false) ∧
    (s.core.pr.rstn = true → s.core.det = .wait → s.core.pr.rti1 = true →
      t.core.det = .held ∧ t.core.selected = true ∧ t.core.pins.csnOe = true) ∧
    (s.core.pr.rstn = true → s.core.det = .held →
      t.core.det = .held ∧ t.core.selected = s.core.selected ∧ t.core.pins.csnOe = s.core.selected))

/-- 40_detector.md section 3 (rule R87 and the spec's decision D12, with its parameter `IDLE_EVT`). DET.WAIT: what it writes and
exactly when it is selected; the idle-entry event is `p.rti1`, or `p.rti` in a build with `IDLE_EVT` (log entry 17), and without
`IDLE_EVT` the value latched is 1. -/
def Obligations.DetectorWaitAndIdleEvent : Prop :=
  (∀ s : State, exec .detWait s = .next { s with core := { s.core with det := .wait, selected := false } }) ∧
  (∀ s : State, decode s.build (.edgeDet s.tWord) = .ok .detWait ↔
    s.core.pr.rstn = true ∧ s.core.det = .wait ∧ (if s.build.idleEvt then s.core.pr.rti else s.core.pr.rti1) = false) ∧
  (∀ s : State, decode s.build (.edgeDet s.tWord) = .ok .detLatch ↔
    s.core.pr.rstn = true ∧ s.core.det = .wait ∧ (if s.build.idleEvt then s.core.pr.rti else s.core.pr.rti1) = true) ∧
  (∀ s t : State, s.build.idleEvt = false → decode s.build (.edgeDet s.tWord) = .ok .detLatch → exec .detLatch s = .next t →
    t.core.selected = true)

/-- Rule R81. DET.PASS: what it drives; with `sel` low both derived outputs are low; and in a PASSTHROUGH build the outputs of
every instance are, after every change of levels, functions of its own three inputs and of nothing else. -/
def Obligations.PassthroughOutputs : Prop :=
  (∀ s : State, exec .detPass s = .next { s with core := { s.core with sig := {
    sel := s.core.jt.sel, capture := s.core.jt.sel && s.core.jt.capture, shift := s.core.jt.sel && s.core.jt.shift } } }) ∧
  (∀ s t : State, exec .detPass s = .next t → s.core.jt.sel = false → t.core.sig = { sel := false, capture := false, shift := false }) ∧
  (∀ (s t : State) l rest, s.build.detMode = .passthrough → s.env = .levels l :: rest → step s = .next t →
    t.core.sig = { sel := l.jt.sel, capture := l.jt.sel && l.jt.capture, shift := l.jt.sel && l.jt.shift } ∧
    t.Everywhere (fun c => c.sig = { sel := c.jt.sel, capture := c.jt.sel && c.jt.capture, shift := c.jt.sel && c.jt.shift }))

/-- 40_detector.md section 3 (rule R86, the spec's decision D14 on `capturing` and `shifting`). DET.OUT: what it drives; reset and
shift never come together; and in a LATCHED build the outputs of every instance follow its selection and its raw flags after every
change of levels. -/
def Obligations.LatchedOutputs : Prop :=
  (∀ s : State, exec .detOut s = .next { s with core := { s.core with sig := {
    sel := s.core.selected, capture := s.core.selected && (s.core.pr.ce && !s.core.pr.shift),
    shift := s.core.selected && s.core.pr.shift } } }) ∧
  (∀ (s t : State) l rest, s.build.detMode = .latched → s.env = .levels l :: rest → step s = .next t →
    t.core.pr = l.pr ∧
    t.Everywhere (fun c => c.sig.sel = c.selected ∧ c.sig.capture = (c.selected && (c.pr.ce && !c.pr.shift)) ∧
      c.sig.shift = (c.selected && c.pr.shift) ∧ (c.sig.capture && c.sig.shift) = false))

/-- 42_datapath.md section 1 (rules R130, R131, with the spec's decisions D9 and D19). MOSI.REG and CSN.REG: what each writes, and
that both run at every rising edge, whatever the state, the selection and the reset, and at no other instant, in every instance. -/
def Obligations.MosiAndChipSelectRegisters : Prop :=
  (∀ s : State, exec .mosiReg s = .next { s with core := { s.core with mosiQ := s.tdi } }) ∧
  (∀ s : State, exec .csnReg s = .next { s with core := { s.core with csnQ := decide (s.core.fsm ≠ .transfer) } }) ∧
  (∀ (s t : State) l rest, BeforeRise s l rest → step s = .next t →
    s.EachTo t (fun c c' => c'.mosiQ = s.tdi ∧ c'.csnQ = decide (c.fsm ≠ .transfer))) ∧
  (∀ (s t : State) l rest, s.env = .levels l :: rest → ¬ (s.tck = false ∧ l.tck = true) → step s = .next t →
    s.EachTo t (fun c c' => c'.mosiQ = c.mosiQ ∧ c'.csnQ = c.csnQ))

/-- Rule R132. TDO.REG: what it writes; it runs at every falling edge, whatever the state, the selection and the reset, and at no
other instant, in every instance; `jtag.tdo` is the register at every instant; and at a rising edge the host reads it. -/
def Obligations.ReadBackRegister : Prop :=
  (∀ s : State, exec .tdoReg s = .next { s with core := { s.core with tdoQ := s.miso } }) ∧
  (∀ (s t : State) l rest, BeforeFall s l rest → step s = .next t →
    s.EachTo t (fun _ c' => c'.tdoQ = s.miso ∧ c'.tdo = s.miso) ∧ t.hostLog = s.hostLog) ∧
  (∀ (s t : State) l rest, s.env = .levels l :: rest → ¬ (s.tck = true ∧ l.tck = false) → step s = .next t →
    s.EachTo t (fun c c' => c'.tdoQ = c.tdoQ)) ∧
  (∀ (s t : State) l rest, BeforeRise s l rest → step s = .next t → t.hostLog = s.core.tdoQ :: s.hostLog) ∧
  (∀ c : Core, c.tdo = c.tdoQ)

/-- Rules R133, R135. CLK.INV and MISO.IN: what each drives, and that after every change of levels, with or without an edge, in
every instance, the SPI clock is the inverse of `tck` and the block presents `Z` on `miso`, whatever the state and the selection;
and that in every instance the registers behind `cs_n` and `mosi` change at no instant but a falling edge of the SPI clock. -/
def Obligations.ClockAndMisoPins : Prop :=
  (∀ s : State, exec .clkInv s = .next { s with core := { s.core with pins := { s.core.pins with clkO := !s.tck } } }) ∧
  (∀ s : State, exec .misoIn s = .next { s with core := { s.core with pins := { s.core.pins with misoOe := false } } }) ∧
  (∀ (s t : State) l rest, s.env = .levels l :: rest → step s = .next t →
    t.tck = l.tck ∧ t.Everywhere (fun c => c.pins.clkO = !l.tck ∧ c.pins.misoOe = false ∧ c.pinMiso = .z)) ∧
  (∀ (s t : State) l rest, s.env = .levels l :: rest → ¬ (s.tck = false ∧ l.tck = true) → step s = .next t →
    s.EachTo t (fun c c' => c'.csnQ = c.csnQ ∧ c'.mosiQ = c.mosiQ))

/-- 42_datapath.md section 4 (rule R136, the spec's decision D20). AUX.HIGH: what it drives, and that in a build with `HAS_AUX`
both lines of every instance are high after every change of levels, whatever the state and the selection. In a build without the
outputs no change of levels drives these lines: that is the model's choice for pins that do not exist there (log entry 12). -/
def Obligations.AuxiliaryOutputs : Prop :=
  (∀ s : State, exec .auxHigh s = .next { s with core := { s.core with pins := { s.core.pins with
    wpnO := true, wpnOe := true, holdnO := true, holdnOe := true } } }) ∧
  (∀ (s t : State) l rest, s.build.hasAux = true → s.env = .levels l :: rest → step s = .next t →
    t.Everywhere (fun c => c.pinWpn = .hi ∧ c.pinHoldn = .hi)) ∧
  (∀ (s t : State) l rest, s.build.hasAux = false → s.env = .levels l :: rest → step s = .next t →
    s.EachTo t (fun c c' => c'.pinWpn = c.pinWpn ∧ c'.pinHoldn = c.pinHoldn))

/-- 41_bridge_fsm.md section 1 (rule R109, with the spec's decision D6 on re-priming, and D8): the two helper functions. Shifting
`W` bits into an accumulator leaves exactly the number they spell, the first bit most significant; and what `finish` writes, in
both builds of `ZERO_HDR` (ONE_TICK as in log entry 22). -/
def Obligations.AccumulatorAndFinish : Prop :=
  (∀ w v : Nat, ∀ b : Bool, shl1 w v b = (2 * v + if b then 1 else 0) % 2 ^ w) ∧
  (∀ (w v : Nat) (bits : List Bool), 1 ≤ w → bits.length = w → bits.foldl (shl1 w) v = msbValue bits) ∧
  (∀ (bits : List Bool), msbValue bits =
    ((List.range bits.length).map (fun i => if bits[i]? = some true then 2 ^ (bits.length - 1 - i) else 0)).sum) ∧
  (∀ b v, v ≠ 0 → finish b v = (.transfer, b.w - 1, v)) ∧
  (∀ b, b.zeroHdr = .idleDirect → finish b 0 = (.idle, b.w - 1, 0)) ∧
  (∀ b, b.zeroHdr = .oneTick → finish b 0 = (.transfer, b.w - 1, 0))

/-! ## Dispatch, decoding and encoding -/

/-- 30_encoding.md section 3 (rule R66, with the spec's decisions D4 and D5). The bits of the dispatch word, the nine rows with
their match and mask, and that the rows are disjoint and cover every word whose `st` is not `11`; so that every state selects
exactly one operation. -/
def Obligations.DomainADispatch : Prop :=
  (∀ s : State, s.dWord.getLsbD 5 = s.core.sig.capture ∧
    s.dWord.extractLsb' 3 2 = (match s.core.fsm with | .idle => 0b00#2 | .header => 0b01#2 | .transfer => 0b10#2) ∧
    s.dWord.getLsbD 2 = (s.core.sig.shift && s.tdi) ∧
    s.dWord.getLsbD 1 = (match s.core.fsm with
      | .idle => decide (s.build.w = 1) | .header => decide (s.core.head ≤ 1) | .transfer => decide (s.core.bits ≤ 1)) ∧
    s.dWord.getLsbD 0 = (match s.core.fsm with
      | .idle => false | .header => decide (shl1 s.build.w s.core.bits s.tdi = 0) | .transfer => false)) ∧
  (aTable.map fun r => (r.pattern, r.mask, r.op)) =
    [(0x20#6, 0x20#6, .reset), (0x00#6, 0x3C#6, .nop), (0x04#6, 0x3E#6, .trig), (0x06#6, 0x3E#6, .trig1), (0x08#6, 0x3A#6, .shift),
      (0x0A#6, 0x3B#6, .last), (0x0B#6, 0x3B#6, .last0), (0x10#6, 0x3A#6, .step), (0x12#6, 0x3A#6, .xlast)] ∧
  (∀ (w : DWord) (o : AOp), decodeA w = .ok o ↔ w &&& o.row.mask = o.row.pattern) ∧
  (∀ (w : DWord) (o o' : AOp), w &&& o.row.mask = o.row.pattern → w &&& o'.row.mask = o'.row.pattern → o = o') ∧
  (∀ w : DWord, w.extractLsb' 3 2 ≠ 0b11#2 → ∃ o : AOp, w &&& o.row.mask = o.row.pattern) ∧
  (∀ s : State, ∃ o : AOp, decodeA s.dWord = .ok o)

/-- 30_encoding.md section 3 (rule R67). The bits of the detector's dispatch word, its four rows, and that every word selects
exactly one; the operations that execute unconditionally; and that they do: at every rising edge, at every falling edge, and at
every instant after a change of levels. What is said of the detector's two unused fields in a PASSTHROUGH build is the model's
choice (log entry 13). -/
def Obligations.DetectorDispatch : Prop :=
  (∀ s : State, s.build.idleEvt = false → s.tWord.getLsbD 2 = s.core.pr.rstn ∧
    s.tWord.getLsbD 1 = decide (s.core.det = .held) ∧ s.tWord.getLsbD 0 = s.core.pr.rti1) ∧
  (detTable.map fun r => (r.pattern, r.mask, r.op)) =
    [(0x0#3, 0x4#3, .clear), (0x4#3, 0x7#3, .wait), (0x5#3, 0x7#3, .latch), (0x6#3, 0x6#3, .hold)] ∧
  (∀ w : TWord, ∃ o : DetOp, decodeDet w = .ok o ∧
    ∀ o' : DetOp, w &&& o'.row.mask = o'.row.pattern ↔ o' = o) ∧
  alwaysAtRise = [.mosiReg, .csnReg] ∧ alwaysAtFall = [.tdoReg] ∧
  (∀ b : Build, b.detMode = .passthrough → b.hasAux = true → atEveryInstant b = [.detPass, .clkInv, .oeSel, .misoIn, .auxHigh]) ∧
  (∀ b : Build, b.detMode = .passthrough → b.hasAux = false → atEveryInstant b = [.detPass, .clkInv, .oeSel, .misoIn]) ∧
  (∀ b : Build, b.detMode = .latched → b.hasAux = true → atEveryInstant b = [.detOut, .clkInv, .oeSel, .misoIn, .auxHigh]) ∧
  (∀ b : Build, b.detMode = .latched → b.hasAux = false → atEveryInstant b = [.detOut, .clkInv, .oeSel, .misoIn]) ∧
  (∀ (s t : State) l rest, BeforeRise s l rest → step s = .next t → RisenFrom s t.core) ∧
  (∀ (s t : State) l rest, BeforeFall s l rest → step s = .next t → t.core.tdoQ = s.miso) ∧
  (∀ (s t : State) (i : Instr) l rest, s.env = .levels l :: rest → step s = .next t → i ∈ atEveryInstant t.build →
    exec i t = .next t)

/-- Decode and encode agree (rules R61, R62, R66, R67): in a legal build, a code of a well-formed operation, with every bit its
row does not care about at any value, decodes to the operation, with its operands. -/
def Obligations.DecodeOfEncode : Prop :=
  ∀ (b : Build) (i : Instr) (free : BitVec 6) (code : Code), b.wf = true → i.wf b = true → encode b free i = some code →
    decode b code = .ok i

/-- 30_encoding.md section 1 (rule R60): the stream grammar. A stream of well-formed items, NOPs and frames, parses into exactly
those items with nothing left over. -/
def Obligations.StreamParsesIntoItsItems : Prop :=
  ∀ (b : Build) (items : List Instr), b.wf = true →
    (∀ i ∈ items, i = .nop ∨ ∃ h body, i = .xfer h body ∧ frameWf b h body = true) →
    decodeStream b.w (encodeStream b items) = (items, [])

/-- 30_encoding.md section 2 (rules R62, R65 (a), which the spec derives): every frame a stream can spell has `2^(W-1) <= H <= 2^W
- 1` and exactly `H` body bits, and occupies `W + H` bits of the stream. -/
def Obligations.FramesThatAStreamCanSpell : Prop :=
  ∀ (b : Build) (bits rest : List Bool) (h : Nat) (body : List Bool), b.wf = true →
    decodeItem b.w bits = .ok (.xfer h body, rest) →
    2 ^ (b.w - 1) ≤ h ∧ h ≤ 2 ^ b.w - 1 ∧ body.length = h ∧ bits = frameBits b.w h body ++ rest ∧
    bits.length = b.w + h + rest.length

/-- Words written out from the tables of rules R66 and R67 decode to their operations, and a word with `st = 11` to none; and the
frame of rule R61's worked example (`W = 4`, header `1,0,1,1`, so `H = 11`), here with a body of eleven alternating bits, and a
frame with `W = 2` decode to their items. -/
def Obligations.WordsOfTheSpecDecode : Prop :=
  decode {} (.edgeA 0b100000#6) = .ok .aReset ∧ decode {} (.edgeA 0b000000#6) = .ok .idleNop ∧
  decode {} (.edgeA 0b000100#6) = .ok .idleTrig ∧ decode {} (.edgeA 0b001010#6) = .ok .headLast ∧
  decode {} (.edgeA 0b010010#6) = .ok .xferLast ∧ decode {} (.edgeA 0b011000#6) = .error .noRow ∧
  decode {} (.edgeDet 0b101#3) = .ok .detLatch ∧
  decode { w := 4 } (.stream [true, false, true, true,
      true, false, true, false, true, false, true, false, true, false, true]) =
    .ok (.xfer 11 [true, false, true, false, true, false, true, false, true, false, true]) ∧
  decode { w := 2 } (.stream [true, false, true, true]) = .ok (.xfer 2 [true, true])

/-! ## Edges -/

/-- A step runs the decoded operations (rules R46, R47, R66, R67). Immediately before a rising edge, the step answers a next
state; in every instance the registers are what `exec` of the operations its dispatch words decode to, of MOSI.REG and of CSN.REG
writes into them, each from the state before the edge; the host samples `tdo`; and the levels, those of every other instance among
them, are the new ones, with everything combinational settled on them (an instance that the change does not reach keeps its own:
log entry 16). What is said of the detector's two unused fields in a PASSTHROUGH build is the model's choice (log entry 13). -/
def Obligations.RisingEdgeRunsDecodedOperations : Prop :=
  ∀ (s : State) l rest, BeforeRise s l rest →
    ∃ t, step s = .next t ∧ s.EachTo t (fun c c' => RisenFrom (s.focus c) c') ∧ TakesLevels s t l ∧ t.Settled ∧
      t.build = s.build ∧ t.env = rest ∧ t.misoFeed = s.misoFeed ∧ t.instant = s.instant + 1 ∧
      t.hostLog = s.core.tdoQ :: s.hostLog ∧ t.spiLog = s.spiLog

/-- Domain B (rules R46, R132). Immediately before a falling edge, the step answers a next state; in every instance `tdo_q` takes
what `exec` of TDO.REG writes and no other register changes; the SPI device samples the pins; and the levels, those of every other
instance among them, are the new ones, with everything combinational settled on them (an instance that the change does not reach
keeps its own: log entry 16). -/
def Obligations.FallingEdgeRunsDomainB : Prop :=
  ∀ (s : State) l rest, BeforeFall s l rest →
    ∃ t u, step s = .next t ∧ exec .tdoReg s = .next u ∧ u.core.tdoQ = s.miso ∧
      s.EachTo t (fun c c' => SameRegisters { c with tdoQ := u.core.tdoQ } c') ∧ TakesLevels s t l ∧ t.Settled ∧
      t.build = s.build ∧ t.env = rest ∧ t.misoFeed = s.misoFeed ∧ t.instant = s.instant + 1 ∧ t.hostLog = s.hostLog ∧
      t.spiLog = { csn := s.core.pinCsn, mosi := s.core.pinMosi } :: s.spiLog

/-- Rules R100, R180: without an edge of `tck` no register of any instance changes, whatever else changes; the levels, those of
every other instance among them, are the new ones, and only the combinational signals and pins follow (an instance that the change
does not reach keeps its own levels: log entry 16). With nothing to come, nothing changes at all (log entry 18). -/
def Obligations.StillClockKeepsRegisters : Prop :=
  (∀ (s : State) l rest, BeforeChange s l rest →
    ∃ t, step s = .next t ∧ s.EachTo t SameRegisters ∧ TakesLevels s t l ∧ t.Settled ∧ t.build = s.build ∧ t.env = rest ∧
      t.misoFeed = s.misoFeed ∧ t.instant = s.instant + 1 ∧ t.hostLog = s.hostLog ∧ t.spiLog = s.spiLog) ∧
  (∀ s : State, s.env = [] → step s = .next s)

/-- A stream item at the head of the queue runs as `exec` of that item (log entry 2, the model's choice of a step). -/
def Obligations.StepRunsStreamItem : Prop :=
  (∀ (s : State) rest, s.env = .nop :: rest → step s = exec .nop { s with env := rest }) ∧
  (∀ (s : State) h body rest, s.env = .xfer h body :: rest → step s = exec (.xfer h body) { s with env := rest })

/-- Rule R9: totality. Every operation in every state, and every step of every state, answers a next state, so that every run is
safe. -/
def Obligations.EverythingIsTotal : Prop :=
  (∀ (i : Instr) (s : State), ∃ t, exec i s = .next t) ∧ (∀ s : State, ∃ t, step s = .next t) ∧
  (∀ (n : Nat) (s : State), SafeRun n s)

/-- The rising-edge step is the listing of 41_bridge_fsm.md section 8, with `finish` of rule R109 (decision D8). In a build with
the parameter ONE_TICK, which the listing does not have, `finish` is D8's alternative as log entry 22 reads it. -/
def Obligations.RisingEdgeIsTheListing : Prop :=
  ∀ (s t : State) l rest, BeforeRise s l rest → step s = .next t →
    (t.core.fsm, t.core.head, t.core.bits) =
      stepA s.build s.core.fsm s.core.head s.core.bits s.core.sig.capture s.core.sig.shift s.tdi

/-- 41_bridge_fsm.md section 7 (rule R113, which the spec derives): the register model and the tagged variant take the same steps,
and agree on TRANSFER, hence on chip select, in both builds of `ZERO_HDR` (ONE_TICK as in log entry 22). -/
def Obligations.TaggedVariantSimulates : Prop :=
  (∀ (s t : State) l rest v, s.build.wf = true → BeforeRise s l rest → step s = .next t → Variant.Of s.build s.core v →
    Variant.Of s.build t.core (v.next s.build s.core.sig.capture s.core.sig.shift s.tdi)) ∧
  (∀ (s t : State) l rest v, BeforeFall s l rest ∨ BeforeChange s l rest → step s = .next t → Variant.Of s.build s.core v →
    Variant.Of s.build t.core v) ∧
  (∀ (b : Build) (c : Core) v, Variant.Of b c v → (c.fsm = .transfer ↔ ∃ n, v = .transfer n)) ∧
  (∀ (b : Build) (bits : Nat) (m d : Bool), Variant.Of b (State.powerUp b bits m d).core .idle)

/-! ## Invariants -/

/-- Rule R67: the combinational assignments hold at every instant. Every step keeps them, in every instance; and on a state where
they hold, executing any of the operations that hold at every instant changes nothing. -/
def Obligations.CombinationalAssignmentsHold : Prop :=
  (∀ s t : State, s.Settled → step s = .next t → t.Settled) ∧
  (∀ (s : State) (i : Instr), s.Settled → i ∈ atEveryInstant s.build →
    exec i s = .next s ∧ ∀ c ∈ s.peers, exec i (s.focus c) = .next (s.focus c))

/-- They hold at power-up, and so right after reset (the levels of the inputs there are the model's choice, log entry 5). -/
def Obligations.CombinationalAssignmentsHoldAtPowerUp : Prop :=
  (∀ (b : Build) (bits : Nat) (m d : Bool), (State.powerUp b bits m d).Settled) ∧ State.reset.Settled

/-- 41_bridge_fsm.md section 6 (rule R111, whose invariants the spec derives): the counters. Every step of a legal build keeps the
invariants in every instance; a Domain-A reset establishes them from any values in the registers' ranges; and a decrement is
computed only where it cannot wrap. -/
def Obligations.CounterInvariants : Prop :=
  (∀ s t : State, s.build.wf = true → s.Counting → step s = .next t → t.Counting) ∧
  (∀ (s t : State) l rest, BeforeRise s l rest → s.core.InRange s.build → s.core.sig.capture = true → step s = .next t →
    t.core.Counting t.build) ∧
  (∀ s : State, s.core.InRange s.build → decode s.build (.edgeA s.dWord) = .ok .headShift →
    1 ≤ s.core.head - 1 ∧ s.core.head - 1 ≤ s.build.w - 2) ∧
  (∀ s : State, s.core.InRange s.build → decode s.build (.edgeA s.dWord) = .ok .xferStep →
    1 ≤ s.core.bits - 1 ∧ s.core.bits - 1 ≤ 2 ^ s.build.w - 2) ∧
  (∀ (w v : Nat) (b : Bool), shl1 w v b < 2 ^ w)

/-- They hold at power-up for every value in range of the arbitrary registers, and right after reset. -/
def Obligations.CounterInvariantsAtPowerUp : Prop :=
  (∀ (b : Build) (bits : Nat) (m d : Bool), bits ≤ 2 ^ b.w - 1 → (State.powerUp b bits m d).Counting) ∧ State.reset.Counting

/-- 10_state.md section 2 (rules R12, R13): every step keeps `head` in `0 .. W-1` and `bits` in `0 .. 2^W - 1` in every instance,
from any state whatever in those ranges; and the first range fits the counter's storage width. -/
def Obligations.RegisterRanges : Prop :=
  (∀ s t : State, s.Everywhere (Core.InRange s.build) → step s = .next t → t.Everywhere (Core.InRange t.build)) ∧
  (∀ b : Build, b.wf = true → b.w - 1 < 2 ^ b.headWidth)

/-- 10_state.md section 3 (rule R17, whose invariant the spec derives): every step keeps "`selected` implies `det = HELD`" in
every instance, and a TAP reset establishes it. -/
def Obligations.SelectedImpliesHeld : Prop :=
  (∀ s t : State, s.Everywhere Core.SelectedIsHeld → step s = .next t → t.Everywhere Core.SelectedIsHeld) ∧
  (∀ (s t : State) l rest, s.build.detMode = .latched → BeforeRise s l rest → s.core.pr.rstn = false → step s = .next t →
    t.core.SelectedIsHeld)

/-- 00_scope.md section 3 (rule R5): the build parameters and the number of instances are immutable (the state holds them: log
entries 1 and 16). -/
def Obligations.BuildIsImmutable : Prop :=
  (∀ s t : State, step s = .next t → t.build = s.build ∧ t.nInst = s.nInst) ∧
  (∀ (i : Instr) (s t : State), exec i s = .next t → t.build = s.build ∧ t.nInst = s.nInst)

/-! ## Reset and power-up -/

/-- 70_reset_and_hazards.md section 1 (rule R193, the spec's decision D15): the default `INIT`, for every value of the arbitrary
registers, in every build; and the reset state is one of them (which one is the model's choice, log entry 3). -/
def Obligations.PowerUpState : Prop :=
  (∀ (b : Build) (bits : Nat) (m d : Bool),
    (State.powerUp b bits m d).core.fsm = .idle ∧ (State.powerUp b bits m d).core.head = b.w - 1 ∧
    (State.powerUp b bits m d).core.csnQ = true ∧ (State.powerUp b bits m d).core.det = .wait ∧
    (State.powerUp b bits m d).core.selected = false ∧ (State.powerUp b bits m d).core.bits = bits ∧
    (State.powerUp b bits m d).core.mosiQ = m ∧ (State.powerUp b bits m d).core.tdoQ = d ∧
    (b.detMode = .latched → (State.powerUp b bits m d).core.pinCsn = .z ∧
      (State.powerUp b bits m d).core.pinClk = .z ∧ (State.powerUp b bits m d).core.pinMosi = .z)) ∧
  (∃ bits m d, State.reset = State.powerUp { w := 32, detMode := .passthrough, hasAux := true } bits m d)

/-- 70_reset_and_hazards.md section 1 (rule R191, the spec's decision D4): the Domain-A reset. It writes `fsm` and `head`; `bits`
and `tdo_q` are not written; `mosi_q` and `csn_q` take their ordinary updates; the detector's registers take what the detector's
own operation gives; chip select, if low, is released by the next rising edge; without a rising edge nothing is reset. What is
said of the detector's two unused fields in a PASSTHROUGH build is the model's choice (log entry 13). -/
def Obligations.DomainAReset : Prop :=
  (∀ (s t : State) l rest, BeforeRise s l rest → s.core.sig.capture = true → step s = .next t →
    t.core.fsm = .idle ∧ t.core.head = s.build.w - 1 ∧ t.core.bits = s.core.bits ∧ t.core.tdoQ = s.core.tdoQ ∧
    t.core.mosiQ = s.tdi ∧ t.core.csnQ = decide (s.core.fsm ≠ .transfer) ∧ RisenFrom s t.core ∧
    (∀ (v u : State) l' rest', v.core.fsm = t.core.fsm → BeforeRise v l' rest' → step v = .next u → u.core.csnQ = true)) ∧
  (∀ (s t : State) l rest, s.env = .levels l :: rest → ¬ (s.tck = false ∧ l.tck = true) → step s = .next t →
    s.EachTo t (fun c c' => c'.fsm = c.fsm ∧ c'.head = c.head ∧ c'.bits = c.bits)) ∧
  (∀ s : State, s.Settled → s.core.sig.sel = false → decode s.build (.edgeA s.dWord) ≠ .ok .aReset)

/-- 70_reset_and_hazards.md section 1 (rule R192): the TAP reset of a LATCHED build. It clears the selection and the enables drop
with it; the Bridge FSM is not written by it and its registers take their own operations' values; and as long as the chain is not
selected the machine is neither reset nor triggered and goes on counting behind disabled pins (a zero header in a build with
ONE_TICK as log entry 22 reads it). A PASSTHROUGH build has no TAP reset and no detector registers: that an edge keeps the two
unused fields there is the model's choice (log entry 13). -/
def Obligations.TapReset : Prop :=
  (∀ (s t : State) l rest, s.build.detMode = .latched → BeforeRise s l rest → s.core.pr.rstn = false → step s = .next t →
    t.core.det = .wait ∧ t.core.selected = false ∧
    t.core.pinCsn = .z ∧ t.core.pinClk = .z ∧ t.core.pinMosi = .z ∧
    t.core.sig.capture = false ∧ t.core.sig.shift = false ∧ RisenFrom s t.core) ∧
  (∀ (s t : State) l rest, s.build.detMode = .latched → s.Settled → s.core.selected = false → BeforeRise s l rest →
    step s = .next t →
    (t.core.fsm, t.core.head, t.core.bits) = stepA s.build s.core.fsm s.core.head s.core.bits false false s.tdi ∧
    (s.core.fsm = .idle → t.core.fsm = .idle)) ∧
  (∀ (s t : State) l rest, s.build.detMode = .passthrough → BeforeRise s l rest → step s = .next t →
    t.core.det = s.core.det ∧ t.core.selected = s.core.selected)

/-- 40_detector.md section 4 (rule R88, which the spec derives): the selection timeline of a LATCHED build. A deselected detector
that waits stays deselected while no idle-entry event comes; the event selects it with `p.rti1`; and a selected one stays selected
through every step at whose rising edges the TAP is out of reset, whatever else the inputs are. The event is `p.rti1`; that it is
`p.rti` in a build with `IDLE_EVT` is decision D12 as log entry 17 reads it, and that a stream item holds the TAP out of reset is
log entry 9. -/
def Obligations.SelectionTimeline : Prop :=
  (∀ (s t : State) l rest, s.build.detMode = .latched → BeforeRise s l rest → s.core.det = .wait →
    (if s.build.idleEvt then s.core.pr.rti else s.core.pr.rti1) = false → step s = .next t →
    t.core.det = .wait ∧ t.core.selected = false ∧ t.core.sig.sel = false ∧ t.core.pinCsn = .z) ∧
  (∀ (s t : State) l rest, s.build.detMode = .latched → BeforeRise s l rest → s.core.pr.rstn = true → s.core.det = .wait →
    (if s.build.idleEvt then s.core.pr.rti else s.core.pr.rti1) = true → step s = .next t →
    t.core.det = .held ∧ t.core.selected = s.core.pr.rti1 ∧ t.core.sig.sel = s.core.pr.rti1) ∧
  (∀ s t : State, s.build.detMode = .latched → s.core.det = .held → s.core.selected = true →
    (∀ l rest, BeforeRise s l rest → s.core.pr.rstn = true) → step s = .next t →
    t.core.det = .held ∧ t.core.selected = true)

/-! ## Pins and nets -/

/-- Rule R134: OE.SEL. What it drives; and after every change of input levels, with or without an edge, in every state of the FSM
and in every instance, the three enables are `sel`: the input `jtag.sel` in a PASSTHROUGH build, the register `selected` in a
LATCHED one. A disabled pin is `Z`, an enabled one shows its value. A change of levels without a rising edge, a deselection among
them, touches `fsm`, `head`, `bits`, `csn_q` and `mosi_q` of no instance. -/
def Obligations.EnablesFollowSelection : Prop :=
  (∀ s : State, exec .oeSel s = .next { s with core := { s.core with pins := { s.core.pins with
    csnOe := s.core.sig.sel, clkOe := s.core.sig.sel, mosiOe := s.core.sig.sel } } }) ∧
  (∀ (s t : State) l rest, s.env = .levels l :: rest → step s = .next t →
    t.Everywhere (fun c => c.pins.csnOe = c.sig.sel ∧ c.pins.clkOe = c.sig.sel ∧ c.pins.mosiOe = c.sig.sel ∧
      (s.build.detMode = .passthrough → c.sig.sel = c.jt.sel) ∧ (s.build.detMode = .latched → c.sig.sel = c.selected)) ∧
    (s.build.detMode = .passthrough → t.core.sig.sel = l.jt.sel)) ∧
  (∀ (s t : State) l rest, s.env = .levels l :: rest → ¬ (s.tck = false ∧ l.tck = true) → step s = .next t →
    s.EachTo t (fun c c' =>
      c'.fsm = c.fsm ∧ c'.head = c.head ∧ c'.bits = c.bits ∧ c'.csnQ = c.csnQ ∧ c'.mosiQ = c.mosiQ)) ∧
  (∀ c : Core, (c.pins.csnOe = false → c.pinCsn = .z) ∧ (c.pins.clkOe = false → c.pinClk = .z) ∧
    (c.pins.mosiOe = false → c.pinMosi = .z) ∧ (c.pins.csnOe = true → c.pinCsn = Level.ofBool c.csnQ) ∧
    (c.pins.clkOe = true → c.pinClk = Level.ofBool c.pins.clkO) ∧ (c.pins.mosiOe = true → c.pinMosi = Level.ofBool c.mosiQ))

/-- 42_datapath.md section 5 and 60_exceptions.md section 9 (rules R137, R178): pin levels and net levels. A pin shows its value
when it is enabled and `Z` otherwise. The level of a shared net is `Z` when no instance enables the pin and the value of the
enabling instance when exactly one does; with at most one instance enabled it is always one of these. On contention, for which the
spec gives no result, it is the free value, of which nothing is said: that form is the model's choice (log entry 6). -/
def Obligations.NetLevels : Prop :=
  (∀ c : Core, c.pinCsn = (if c.pins.csnOe then Level.ofBool c.csnQ else .z) ∧
    c.pinClk = (if c.pins.clkOe then Level.ofBool c.pins.clkO else .z) ∧
    c.pinMosi = (if c.pins.mosiOe then Level.ofBool c.mosiQ else .z)) ∧
  (∀ (s : State) (p : BusPin), (∀ c ∈ s.core :: s.peers, (c.driver p).1 = false) → s.net p = .z) ∧
  (∀ (s : State) (p : BusPin) (before after : List Core) (c : Core), s.core :: s.peers = before ++ c :: after →
    (c.driver p).1 = true → (∀ d ∈ before ++ after, (d.driver p).1 = false) → s.net p = Level.ofBool (c.driver p).2) ∧
  (∀ (s : State) (p : BusPin) (before between after : List Core) (c d : Core),
    s.core :: s.peers = before ++ c :: (between ++ d :: after) → (c.driver p).1 = true → (d.driver p).1 = true →
    s.net p = Config.contendedNet s.instant p) ∧
  (∀ (s : State) (p : BusPin), s.Settled → s.Exclusive →
    s.net p = .z ∨ ∃ c ∈ s.core :: s.peers, (c.driver p).1 = true ∧ s.net p = Level.ofBool (c.driver p).2)

/-- 42_datapath.md section 5 (rule R138, which the spec derives): the outputs of a tick. From a state with `tck` low, one tick
shows the SPI device `cs_n = (fsm != TRANSFER)` and `mosi = tdi`, both under the enable `sel` of that tick; the host reads the
`tdo_q` from before; the SPI clock is low after the rising edge and high after the falling one; and `tdo_q` holds the `miso` level
of the tick. The level changes that make a tick are the model's choice (log entry 9). -/
def Obligations.OutputsOfATick : Prop :=
  ∀ (s : State) (t : TickLine), s.tck = false →
    ∃ v u, applyAll [t.levels false s.miso, t.levels true t.miso] s = .next v ∧ runTick t s = .next u ∧
      v.core.pins.clkO = false ∧ u.core.pins.clkO = true ∧
      u.core.sig.sel = (match s.build.detMode with | .passthrough => t.sel | .latched => u.core.selected) ∧
      u.spiLog = { csn := if u.core.sig.sel then Level.ofBool (decide (s.core.fsm ≠ .transfer)) else .z,
                   mosi := if u.core.sig.sel then Level.ofBool t.tdi else .z } :: s.spiLog ∧
      u.hostLog = s.core.tdoQ :: s.hostLog ∧ u.core.tdoQ = t.miso ∧ u.tck = false

/-- 43_frames.md section 2 (rule R153, which the spec derives): read-back. Over any ticks whatever, what the host reads is the
`miso` stream delayed by one tick, one bit for one bit. The level changes that make a tick are the model's choice (log entry 9). -/
def Obligations.ReadBackIsMisoOneTickLate : Prop :=
  ∀ (ts : List TickLine) (s u : State), s.tck = false → runTicks ts s = .next u →
    u.core.tdoQ :: u.hostLog = (ts.map TickLine.miso).reverse ++ s.core.tdoQ :: s.hostLog

/-! ## Frames -/

/-- 43_frames.md section 1 (rule R150, which the spec derives): the item NOP. Immediately before a tick in IDLE, one tick leaves
the state machine as it is, shows chip select high and `mosi` low (under the enable), and lets the host read one more bit;
everything combinational has settled. The flags that the item comes with, and so that a LATCHED detector that is held keeps its
registers, and that `miso` comes from `misoFeed`, are the model's choice (log entry 9); that a PASSTHROUGH build has such fields,
which keep their values, is log entry 13. -/
def Obligations.NopItem : Prop :=
  ∀ s : State, s.tck = false → s.core.fsm = .idle →
    ∃ t, exec .nop s = .next t ∧ t.core.fsm = .idle ∧ t.core.head = s.core.head ∧ t.core.bits = s.core.bits ∧
      t.core.csnQ = true ∧ t.core.mosiQ = false ∧ t.core.tdoQ = s.misoFeed.headD false ∧
      ((s.build.detMode = .latched → s.core.det = .held) → t.core.det = s.core.det ∧ t.core.selected = s.core.selected) ∧
      t.hostLog = s.core.tdoQ :: s.hostLog ∧
      t.spiLog = { csn := if t.core.sig.sel then .hi else .z, mosi := if t.core.sig.sel then .lo else .z } :: s.spiLog ∧
      t.misoFeed = s.misoFeed.tail ∧ t.tck = false ∧ t.tdi = false ∧ t.miso = s.misoFeed.headD false ∧ t.Settled ∧
      t.build = s.build ∧ t.env = s.env ∧ t.peers.length = s.peers.length

/-- 43_frames.md sections 1 and 2 (rules R151, R152, which the spec derives): the item XFER. From IDLE with the chain selected, a
well-formed frame answers a next state: the machine is in IDLE with `head = W-1` and `bits = 0`; the SPI device was shown the
header bits with chip select high and then exactly the body bits, in order, with chip select low; the host has read one bit a
tick; and chip select, still low, goes high at the next tick. In a LATCHED build the selection is held, as the invariant of rule
R17 has it. The flags that the item comes with, and so that the detector's registers keep their values, and that `miso` comes from
`misoFeed`, are the model's choice (log entry 9); a frame that comes with any other flags is `FrameUnderAnyFlags`. -/
def Obligations.XferItem : Prop :=
  ∀ (s : State) (h : Nat) (body : List Bool), s.build.wf = true → frameWf s.build h body = true → s.tck = false →
    s.core.fsm = .idle → (s.build.detMode = .latched → s.core.selected = true ∧ s.core.det = .held) →
    ∃ t, exec (.xfer h body) s = .next t ∧ t.core.fsm = .idle ∧ t.core.head = s.build.w - 1 ∧ t.core.bits = 0 ∧
      t.core.csnQ = false ∧ t.core.mosiQ = body.getLastD false ∧
      t.core.det = s.core.det ∧ t.core.selected = s.core.selected ∧
      t.spiLog = ((msbBits s.build.w h).map (fun b => ({ csn := .hi, mosi := Level.ofBool b } : SpiSample)) ++
        body.map (fun b => ({ csn := .lo, mosi := Level.ofBool b } : SpiSample))).reverse ++ s.spiLog ∧
      t.core.tdoQ :: t.hostLog =
        ((List.range (s.build.w + h)).map (fun k => s.misoFeed.getD k false)).reverse ++ s.core.tdoQ :: s.hostLog ∧
      t.misoFeed = s.misoFeed.drop (s.build.w + h) ∧ t.tck = false ∧ t.Settled ∧ t.build = s.build ∧ t.env = s.env ∧
      t.peers.length = s.peers.length ∧
      (∀ u, exec .nop t = .next u → u.core.csnQ = true)

/-- 43_frames.md sections 1, 2 and 3 (rules R151, R152, R156, R157, which the spec derives): a frame under any flags. Over any
ticks whose bits are a whole frame, whose first one triggers and none of which is reset, with `sel`, `shift` and the primitive's
flags in the later ones whatever they are (pause and deselected ticks among them), the machine ends in IDLE with `head = W-1` and
`bits = 0`, and chip select is released by the next tick; in every tick with the pins enabled the SPI device was shown the tick's
bit, with chip select high in the `W` header ticks and low in the `H` body ticks, and `Z` on both in every tick with them
disabled; the host has read one bit a tick. `sel k` names the selection at the end of tick `k`, in a PASSTHROUGH build the tick's
own `sel`. The level changes that make a tick are the model's choice (log entry 9). -/
def Obligations.FrameUnderAnyFlags : Prop :=
  ∀ (s : State) (ts : List TickLine) (h : Nat) (sel : Nat → Bool), FrameTicks s ts h →
    (∀ k x, k < ts.length → runTicks (ts.take (k + 1)) s = .next x → x.core.sig.sel = sel k) →
    ∃ t, runTicks ts s = .next t ∧ t.core.fsm = .idle ∧ t.core.head = s.build.w - 1 ∧ t.core.bits = 0 ∧ t.core.csnQ = false ∧
      t.spiLog = ((List.range ts.length).map fun k =>
        if sel k then
          { csn := if k < s.build.w then .hi else .lo, mosi := Level.ofBool (ts.getD k {}).tdi : SpiSample }
        else { csn := .z, mosi := .z }).reverse ++ s.spiLog ∧
      t.core.tdoQ :: t.hostLog = (ts.map TickLine.miso).reverse ++ s.core.tdoQ :: s.hostLog ∧
      (s.build.detMode = .passthrough → ∀ k, k < ts.length → sel k = (ts.getD k {}).sel) ∧
      t.tck = false ∧ t.build = s.build ∧ (∀ next u, runTick next t = .next u → u.core.csnQ = true)

/-- 43_frames.md section 2 (rule R154, which the spec derives): back-to-back frames. Two identical frames shifted one after the
other with the chain selected show the SPI device identical traces, and the second leaves the state machine as the first did: two
XFER items, whose flags are the model's choice (log entry 9); and any ticks whose bits are the same whole frame, with `sel`
asserted throughout and every other flag whatever it is in the ticks after the trigger. -/
def Obligations.BackToBackFramesAreIdentical : Prop :=
  (∀ (s t u : State) (h : Nat) (body : List Bool), s.build.wf = true → frameWf s.build h body = true → s.tck = false →
    s.core.fsm = .idle → (s.build.detMode = .latched → s.core.selected = true ∧ s.core.det = .held) →
    exec (.xfer h body) s = .next t → exec (.xfer h body) t = .next u →
    u.core.fsm = t.core.fsm ∧ u.core.head = t.core.head ∧ u.core.bits = t.core.bits ∧
    ∃ trace, t.spiLog = trace ++ s.spiLog ∧ u.spiLog = trace ++ t.spiLog) ∧
  (∀ (s t u : State) (ts ts' : List TickLine) (h : Nat), FrameTicks s ts h → FrameTicks t ts' h →
    ts'.map TickLine.tdi = ts.map TickLine.tdi →
    (∀ k x, k < ts.length → runTicks (ts.take (k + 1)) s = .next x → x.core.sig.sel = true) →
    (∀ k x, k < ts'.length → runTicks (ts'.take (k + 1)) t = .next x → x.core.sig.sel = true) →
    runTicks ts s = .next t → runTicks ts' t = .next u →
    u.core.fsm = t.core.fsm ∧ u.core.head = t.core.head ∧ u.core.bits = t.core.bits ∧
    ∃ trace, trace.length = ts.length ∧ t.spiLog = trace ++ s.spiLog ∧ u.spiLog = trace ++ t.spiLog)

/-- 41_bridge_fsm.md section 7 (rule R112, which the spec derives): the timing of a frame, for every `W >= 1` and any inputs
whatever after the trigger. Let the state immediately before tick 0 take a trigger, and let no Domain-A reset occur in the ticks
of the frame. Then the machine is in HEADER exactly at the ticks `1 .. W-1`, in TRANSFER exactly at the ticks `W .. W+H-1` with
`bits` counting down from the header value `H`, which is the number its `W` bits spell and at least `2^(W-1)`, and in IDLE with
`head = W-1` at tick `W+H`. The level changes that make a tick are the model's choice (log entry 9). -/
def Obligations.FrameTiming : Prop :=
  ∀ (s v₀ : State) (ts : List TickLine) (h : Nat), s.build.wf = true → s.build.w ≤ ts.length →
    AtTick s ts 0 v₀ → v₀.core.fsm = .idle → (v₀.core.sig.shift && v₀.tdi) = true →
    h = msbValue ((ts.take s.build.w).map TickLine.tdi) →
    (∀ k v, k < s.build.w + h → AtTick s ts k v → v.core.sig.capture = false) →
    2 ^ (s.build.w - 1) ≤ h ∧ h ≤ 2 ^ s.build.w - 1 ∧
    ∀ k v, AtTick s ts k v →
      (1 ≤ k → k < s.build.w → v.core.fsm = .header) ∧
      (s.build.w ≤ k → k < s.build.w + h → v.core.fsm = .transfer ∧ v.core.bits = h - (k - s.build.w)) ∧
      (k = s.build.w + h → v.core.fsm = .idle ∧ v.core.head = s.build.w - 1)

/-- 43_frames.md section 3 (rules R156, R157, the spec's decision D18): inside a frame the flags are not read. Two machines that
agree on the build, the state machine (in HEADER or TRANSFER) and `tdi`, and are not being reset, take the same rising edge,
however they differ in selection, in shifting, in the detector or in anything else. -/
def Obligations.FlagsAreNotReadInsideAFrame : Prop :=
  ∀ (s s' t t' : State) l l' rest rest', s.build = s'.build → s.core.fsm ≠ .idle → s.core.fsm = s'.core.fsm →
    s.core.head = s'.core.head → s.core.bits = s'.core.bits → s.tdi = s'.tdi →
    s.core.sig.capture = false → s'.core.sig.capture = false → BeforeRise s l rest → BeforeRise s' l' rest' →
    step s = .next t → step s' = .next t' →
    t.core.fsm = t'.core.fsm ∧ t.core.head = t'.core.head ∧ t.core.bits = t'.core.bits ∧
    t.core.mosiQ = t'.core.mosiQ ∧ t.core.csnQ = t'.core.csnQ

/-- 43_frames.md section 3 (rule R156, which the spec derives): deselection. In a PASSTHROUGH build, after any change of levels,
the three pins of every instance whose `jtag.sel` is low are `Z` at once; in any build a change of levels with no rising edge in
it leaves `fsm`, `head`, `bits`, `csn_q` and `mosi_q` of every instance as they were, and `tdo_q` takes its ordinary update, at a
falling edge only; and in a settled machine an instance that is not selected is neither reset nor triggered. -/
def Obligations.DeselectionDisablesThePins : Prop :=
  (∀ (s t : State) l rest, s.build.detMode = .passthrough → s.env = .levels l :: rest → step s = .next t →
    t.core.jt = l.jt ∧
    t.Everywhere (fun c => c.jt.sel = false → c.pinCsn = .z ∧ c.pinClk = .z ∧ c.pinMosi = .z)) ∧
  (∀ (s t : State) l rest, s.env = .levels l :: rest → ¬ (s.tck = false ∧ l.tck = true) → step s = .next t →
    s.EachTo t (fun c c' =>
      c'.fsm = c.fsm ∧ c'.head = c.head ∧ c'.bits = c.bits ∧ c'.csnQ = c.csnQ ∧ c'.mosiQ = c.mosiQ ∧
      c'.tdoQ = if s.tck = true ∧ l.tck = false then s.miso else c.tdoQ)) ∧
  (∀ s : State, s.Settled →
    s.Everywhere (fun c => c.sig.sel = false → c.sig.capture = false ∧ c.sig.shift = false))

/-- A stream item is its tick lines (30_encoding.md section 4, rule R68; the model's choice of the level changes of a tick, log
entry 9). With nothing fed on `miso`, executing NOP or XFER is running the machine step by step over the changes of input levels
that its ticks make. -/
def Obligations.StreamItemsAreTheirTicks : Prop :=
  ∀ (s : State) (i : Instr) (bits : List Bool) (rest : List Stim), s.misoFeed = [] →
    (i = .nop ∧ bits = [false] ∨ ∃ h body, i = .xfer h body ∧ bits = frameBits s.build.w h body) →
    Host.Core.run Sys2Proof.core (3 * bits.length)
      ({ s with env := (tickChanges s.miso (bits.map fun b => ({ tdi := b } : TickLine))).map Stim.levels ++ rest } : State) =
    exec i ({ s with env := rest } : State)

/-! ## Non-interference -/

/-- 10_state.md section 6 (rule R27): `tdo` never carries block state. Two machines that agree on `tdo_q`, on `tck` and `miso`
now, on what the environment does next and on `W` show the host the same, however they differ in every other register, in
selection or in build. -/
def Obligations.ReadBackCarriesNoBlockState : Prop :=
  ∀ (n : Nat) (s s' t t' : State), s.build.w = s'.build.w → s.env = s'.env → s.misoFeed = s'.misoFeed →
    s.tck = s'.tck → s.miso = s'.miso → s.core.tdoQ = s'.core.tdoQ → s.hostLog = s'.hostLog →
    Host.Core.run Sys2Proof.core n s = .next t → Host.Core.run Sys2Proof.core n s' = .next t' →
    t.core.tdoQ = t'.core.tdoQ ∧ t.hostLog = t'.hostLog

/-- 60_exceptions.md section 9 (rule R178): instances share nothing but the input levels. Whatever other instances there are (in
the form of log entry 16), this one takes the same step. -/
def Obligations.OtherInstancesDoNotInterfere : Prop :=
  ∀ (s t t' : State) (peers : List Core), step s = .next t → step { s with peers := peers } = .next t' →
    t'.core = t.core ∧ t'.hostLog = t.hostLog ∧ t'.spiLog = t.spiLog

/-- 92_eei_decisions.md D8: no run that starts inside the invariants of the counters can tell the two builds of `ZERO_HDR` apart
(ONE_TICK as in log entry 22). -/
def Obligations.ZeroHeaderChoiceIsUnobservable : Prop :=
  ∀ (s t t' : State) (z : ZeroHdr), s.build.wf = true → s.Counting → step s = .next t →
    step { s with build := { s.build with zeroHdr := z } } = .next t' →
    t' = { t with build := { t.build with zeroHdr := z } }
end

