-- ==== Sys2Proof/Laws/Decode.lean ====
section
/-! SUPPORT. What the decoder's parts do: the dispatch words of a state always select an operation, and the two ways of writing a
number as bits undo each other. -/

namespace Sys2Proof

open Machine

/-- The operation that the fields of a Domain-A dispatch word select (rule R66). -/
def AOp.select (rstA : Bool) (st : Fsm) (trig last zero : Bool) : AOp :=
  if rstA then .reset
  else
    match st with
    | .idle => if trig then (if last then .trig1 else .trig) else .nop
    | .header => if last then (if zero then .last0 else .last) else .shift
    | .transfer => if last then .xlast else .step

/-- The operation that the fields of a detector dispatch word select (rule R67). -/
def DetOp.select (rstn : Bool) (dt : Det) (event : Bool) : DetOp :=
  if rstn then
    match dt with
    | .wait => if event then .latch else .wait
    | .held => .hold
  else .clear

theorem decodeA_fields (rstA : Bool) (st : Fsm) (trig last zero : Bool) :
    decodeA (BitVec.ofBool rstA ++ st.label ++ BitVec.ofBool trig ++ BitVec.ofBool last ++ BitVec.ofBool zero) =
      .ok (AOp.select rstA st trig last zero) := by
  cases rstA <;> cases st <;> cases trig <;> cases last <;> cases zero <;> rfl

theorem decodeDet_fields (rstn : Bool) (dt : Det) (event : Bool) :
    decodeDet (BitVec.ofBool rstn ++ BitVec.ofBool dt.label ++ BitVec.ofBool event) = .ok (DetOp.select rstn dt event) := by
  cases rstn <;> cases dt <;> cases event <;> rfl

/-- The dispatch word of a state selects an operation. -/
theorem decodeA_dWord (s : State) : decodeA s.dWord = .ok (AOp.select s.rstA s.core.fsm s.trig s.last s.zero) :=
  decodeA_fields ..

/-- The detector's dispatch word of a state selects an operation. -/
theorem decodeDet_tWord (s : State) :
    decodeDet s.tWord = .ok (DetOp.select s.core.pr.rstn s.core.det (idleEvent s.build s.core)) :=
  decodeDet_fields ..

/-! ## Numbers as bits -/

@[simp] theorem msbBits_length (n v : Nat) : (msbBits n v).length = n := by
  induction n with
  | zero => rfl
  | succ n ih => simp [msbBits, ih]

@[simp] theorem frameBits_length (w h : Nat) (body : List Bool) : (frameBits w h body).length = w + body.length := by
  simp [frameBits]

theorem msbValue_snoc (bits : List Bool) (b : Bool) : msbValue (bits ++ [b]) = 2 * msbValue bits + b.toNat := by
  simp [msbValue]

theorem msbValue_foldl (bits : List Bool) (a : Nat) :
    bits.foldl (fun v b => 2 * v + b.toNat) a = a * 2 ^ bits.length + msbValue bits := by
  induction bits generalizing a with
  | nil => simp [msbValue]
  | cons b bs ih =>
    simp only [msbValue, List.foldl_cons, List.length_cons] at ih ⊢
    rw [ih (2 * a + b.toNat), ih (2 * 0 + b.toNat), pow_succ]
    ring

/-- The first bit has the weight of the bits after it. -/
theorem msbValue_cons (b : Bool) (bits : List Bool) :
    msbValue (b :: bits) = b.toNat * 2 ^ bits.length + msbValue bits := by
  have h := msbValue_foldl bits b.toNat
  simpa [msbValue] using h

theorem msbValue_lt (bits : List Bool) : msbValue bits < 2 ^ bits.length := by
  induction bits with
  | nil => simp [msbValue]
  | cons b bs ih =>
    rw [msbValue_cons, List.length_cons, pow_succ]
    cases b <;> simp <;> omega

/-- The bits of a number spell its value modulo the width. -/
theorem msbValue_msbBits (n v : Nat) : msbValue (msbBits n v) = v % 2 ^ n := by
  induction n with
  | zero => simp [msbBits, msbValue, Nat.mod_one]
  | succ n ih =>
    rw [msbBits, msbValue_cons, msbBits_length, ih, Nat.testBit_eq_decide_div_mod_eq, Nat.pow_succ, Nat.mod_mul]
    rcases Nat.mod_two_eq_zero_or_one (v / 2 ^ n) with h | h <;> simp [h, Nat.add_comm]

end Sys2Proof
end

