-- ==== Sys2Proof/Laws/State.lean ====
section
/-! SUPPORT. One lemma per field per update of the state, true by `rfl`: no later proof unfolds a record update. -/

namespace Sys2Proof.Machine

/-! ## putFsm -/

@[simp] theorem State.putFsm_core_fsm (s : State) (f : Fsm) (h n : Nat) : (s.putFsm f h n).core.fsm = f := rfl
@[simp] theorem State.putFsm_core_head (s : State) (f : Fsm) (h n : Nat) : (s.putFsm f h n).core.head = h := rfl
@[simp] theorem State.putFsm_core_bits (s : State) (f : Fsm) (h n : Nat) : (s.putFsm f h n).core.bits = n := rfl
@[simp] theorem State.putFsm_core_mosiQ (s : State) (f : Fsm) (h n : Nat) : (s.putFsm f h n).core.mosiQ = s.core.mosiQ := rfl
@[simp] theorem State.putFsm_core_csnQ (s : State) (f : Fsm) (h n : Nat) : (s.putFsm f h n).core.csnQ = s.core.csnQ := rfl
@[simp] theorem State.putFsm_core_tdoQ (s : State) (f : Fsm) (h n : Nat) : (s.putFsm f h n).core.tdoQ = s.core.tdoQ := rfl
@[simp] theorem State.putFsm_core_det (s : State) (f : Fsm) (h n : Nat) : (s.putFsm f h n).core.det = s.core.det := rfl
@[simp] theorem State.putFsm_core_selected (s : State) (f : Fsm) (h n : Nat) : (s.putFsm f h n).core.selected = s.core.selected := rfl
@[simp] theorem State.putFsm_core_jt (s : State) (f : Fsm) (h n : Nat) : (s.putFsm f h n).core.jt = s.core.jt := rfl
@[simp] theorem State.putFsm_core_pr (s : State) (f : Fsm) (h n : Nat) : (s.putFsm f h n).core.pr = s.core.pr := rfl
@[simp] theorem State.putFsm_core_sig (s : State) (f : Fsm) (h n : Nat) : (s.putFsm f h n).core.sig = s.core.sig := rfl
@[simp] theorem State.putFsm_core_pins (s : State) (f : Fsm) (h n : Nat) : (s.putFsm f h n).core.pins = s.core.pins := rfl
@[simp] theorem State.putFsm_build (s : State) (f : Fsm) (h n : Nat) : (s.putFsm f h n).build = s.build := rfl
@[simp] theorem State.putFsm_peers (s : State) (f : Fsm) (h n : Nat) : (s.putFsm f h n).peers = s.peers := rfl
@[simp] theorem State.putFsm_tck (s : State) (f : Fsm) (h n : Nat) : (s.putFsm f h n).tck = s.tck := rfl
@[simp] theorem State.putFsm_tdi (s : State) (f : Fsm) (h n : Nat) : (s.putFsm f h n).tdi = s.tdi := rfl
@[simp] theorem State.putFsm_miso (s : State) (f : Fsm) (h n : Nat) : (s.putFsm f h n).miso = s.miso := rfl
@[simp] theorem State.putFsm_env (s : State) (f : Fsm) (h n : Nat) : (s.putFsm f h n).env = s.env := rfl
@[simp] theorem State.putFsm_misoFeed (s : State) (f : Fsm) (h n : Nat) : (s.putFsm f h n).misoFeed = s.misoFeed := rfl
@[simp] theorem State.putFsm_instant (s : State) (f : Fsm) (h n : Nat) : (s.putFsm f h n).instant = s.instant := rfl
@[simp] theorem State.putFsm_hostLog (s : State) (f : Fsm) (h n : Nat) : (s.putFsm f h n).hostLog = s.hostLog := rfl
@[simp] theorem State.putFsm_spiLog (s : State) (f : Fsm) (h n : Nat) : (s.putFsm f h n).spiLog = s.spiLog := rfl

/-! ## putDet -/

@[simp] theorem State.putDet_core_fsm (s : State) (d : Det) (v : Bool) : (s.putDet d v).core.fsm = s.core.fsm := rfl
@[simp] theorem State.putDet_core_head (s : State) (d : Det) (v : Bool) : (s.putDet d v).core.head = s.core.head := rfl
@[simp] theorem State.putDet_core_bits (s : State) (d : Det) (v : Bool) : (s.putDet d v).core.bits = s.core.bits := rfl
@[simp] theorem State.putDet_core_mosiQ (s : State) (d : Det) (v : Bool) : (s.putDet d v).core.mosiQ = s.core.mosiQ := rfl
@[simp] theorem State.putDet_core_csnQ (s : State) (d : Det) (v : Bool) : (s.putDet d v).core.csnQ = s.core.csnQ := rfl
@[simp] theorem State.putDet_core_tdoQ (s : State) (d : Det) (v : Bool) : (s.putDet d v).core.tdoQ = s.core.tdoQ := rfl
@[simp] theorem State.putDet_core_det (s : State) (d : Det) (v : Bool) : (s.putDet d v).core.det = d := rfl
@[simp] theorem State.putDet_core_selected (s : State) (d : Det) (v : Bool) : (s.putDet d v).core.selected = v := rfl
@[simp] theorem State.putDet_core_jt (s : State) (d : Det) (v : Bool) : (s.putDet d v).core.jt = s.core.jt := rfl
@[simp] theorem State.putDet_core_pr (s : State) (d : Det) (v : Bool) : (s.putDet d v).core.pr = s.core.pr := rfl
@[simp] theorem State.putDet_core_sig (s : State) (d : Det) (v : Bool) : (s.putDet d v).core.sig = s.core.sig := rfl
@[simp] theorem State.putDet_core_pins (s : State) (d : Det) (v : Bool) : (s.putDet d v).core.pins = s.core.pins := rfl
@[simp] theorem State.putDet_build (s : State) (d : Det) (v : Bool) : (s.putDet d v).build = s.build := rfl
@[simp] theorem State.putDet_peers (s : State) (d : Det) (v : Bool) : (s.putDet d v).peers = s.peers := rfl
@[simp] theorem State.putDet_tck (s : State) (d : Det) (v : Bool) : (s.putDet d v).tck = s.tck := rfl
@[simp] theorem State.putDet_tdi (s : State) (d : Det) (v : Bool) : (s.putDet d v).tdi = s.tdi := rfl
@[simp] theorem State.putDet_miso (s : State) (d : Det) (v : Bool) : (s.putDet d v).miso = s.miso := rfl
@[simp] theorem State.putDet_env (s : State) (d : Det) (v : Bool) : (s.putDet d v).env = s.env := rfl
@[simp] theorem State.putDet_misoFeed (s : State) (d : Det) (v : Bool) : (s.putDet d v).misoFeed = s.misoFeed := rfl
@[simp] theorem State.putDet_instant (s : State) (d : Det) (v : Bool) : (s.putDet d v).instant = s.instant := rfl
@[simp] theorem State.putDet_hostLog (s : State) (d : Det) (v : Bool) : (s.putDet d v).hostLog = s.hostLog := rfl
@[simp] theorem State.putDet_spiLog (s : State) (d : Det) (v : Bool) : (s.putDet d v).spiLog = s.spiLog := rfl

/-! ## putMosi -/

@[simp] theorem State.putMosi_core_fsm (s : State) (v : Bool) : (s.putMosi v).core.fsm = s.core.fsm := rfl
@[simp] theorem State.putMosi_core_head (s : State) (v : Bool) : (s.putMosi v).core.head = s.core.head := rfl
@[simp] theorem State.putMosi_core_bits (s : State) (v : Bool) : (s.putMosi v).core.bits = s.core.bits := rfl
@[simp] theorem State.putMosi_core_mosiQ (s : State) (v : Bool) : (s.putMosi v).core.mosiQ = v := rfl
@[simp] theorem State.putMosi_core_csnQ (s : State) (v : Bool) : (s.putMosi v).core.csnQ = s.core.csnQ := rfl
@[simp] theorem State.putMosi_core_tdoQ (s : State) (v : Bool) : (s.putMosi v).core.tdoQ = s.core.tdoQ := rfl
@[simp] theorem State.putMosi_core_det (s : State) (v : Bool) : (s.putMosi v).core.det = s.core.det := rfl
@[simp] theorem State.putMosi_core_selected (s : State) (v : Bool) : (s.putMosi v).core.selected = s.core.selected := rfl
@[simp] theorem State.putMosi_core_jt (s : State) (v : Bool) : (s.putMosi v).core.jt = s.core.jt := rfl
@[simp] theorem State.putMosi_core_pr (s : State) (v : Bool) : (s.putMosi v).core.pr = s.core.pr := rfl
@[simp] theorem State.putMosi_core_sig (s : State) (v : Bool) : (s.putMosi v).core.sig = s.core.sig := rfl
@[simp] theorem State.putMosi_core_pins (s : State) (v : Bool) : (s.putMosi v).core.pins = s.core.pins := rfl
@[simp] theorem State.putMosi_build (s : State) (v : Bool) : (s.putMosi v).build = s.build := rfl
@[simp] theorem State.putMosi_peers (s : State) (v : Bool) : (s.putMosi v).peers = s.peers := rfl
@[simp] theorem State.putMosi_tck (s : State) (v : Bool) : (s.putMosi v).tck = s.tck := rfl
@[simp] theorem State.putMosi_tdi (s : State) (v : Bool) : (s.putMosi v).tdi = s.tdi := rfl
@[simp] theorem State.putMosi_miso (s : State) (v : Bool) : (s.putMosi v).miso = s.miso := rfl
@[simp] theorem State.putMosi_env (s : State) (v : Bool) : (s.putMosi v).env = s.env := rfl
@[simp] theorem State.putMosi_misoFeed (s : State) (v : Bool) : (s.putMosi v).misoFeed = s.misoFeed := rfl
@[simp] theorem State.putMosi_instant (s : State) (v : Bool) : (s.putMosi v).instant = s.instant := rfl
@[simp] theorem State.putMosi_hostLog (s : State) (v : Bool) : (s.putMosi v).hostLog = s.hostLog := rfl
@[simp] theorem State.putMosi_spiLog (s : State) (v : Bool) : (s.putMosi v).spiLog = s.spiLog := rfl

/-! ## putCsn -/

@[simp] theorem State.putCsn_core_fsm (s : State) (v : Bool) : (s.putCsn v).core.fsm = s.core.fsm := rfl
@[simp] theorem State.putCsn_core_head (s : State) (v : Bool) : (s.putCsn v).core.head = s.core.head := rfl
@[simp] theorem State.putCsn_core_bits (s : State) (v : Bool) : (s.putCsn v).core.bits = s.core.bits := rfl
@[simp] theorem State.putCsn_core_mosiQ (s : State) (v : Bool) : (s.putCsn v).core.mosiQ = s.core.mosiQ := rfl
@[simp] theorem State.putCsn_core_csnQ (s : State) (v : Bool) : (s.putCsn v).core.csnQ = v := rfl
@[simp] theorem State.putCsn_core_tdoQ (s : State) (v : Bool) : (s.putCsn v).core.tdoQ = s.core.tdoQ := rfl
@[simp] theorem State.putCsn_core_det (s : State) (v : Bool) : (s.putCsn v).core.det = s.core.det := rfl
@[simp] theorem State.putCsn_core_selected (s : State) (v : Bool) : (s.putCsn v).core.selected = s.core.selected := rfl
@[simp] theorem State.putCsn_core_jt (s : State) (v : Bool) : (s.putCsn v).core.jt = s.core.jt := rfl
@[simp] theorem State.putCsn_core_pr (s : State) (v : Bool) : (s.putCsn v).core.pr = s.core.pr := rfl
@[simp] theorem State.putCsn_core_sig (s : State) (v : Bool) : (s.putCsn v).core.sig = s.core.sig := rfl
@[simp] theorem State.putCsn_core_pins (s : State) (v : Bool) : (s.putCsn v).core.pins = s.core.pins := rfl
@[simp] theorem State.putCsn_build (s : State) (v : Bool) : (s.putCsn v).build = s.build := rfl
@[simp] theorem State.putCsn_peers (s : State) (v : Bool) : (s.putCsn v).peers = s.peers := rfl
@[simp] theorem State.putCsn_tck (s : State) (v : Bool) : (s.putCsn v).tck = s.tck := rfl
@[simp] theorem State.putCsn_tdi (s : State) (v : Bool) : (s.putCsn v).tdi = s.tdi := rfl
@[simp] theorem State.putCsn_miso (s : State) (v : Bool) : (s.putCsn v).miso = s.miso := rfl
@[simp] theorem State.putCsn_env (s : State) (v : Bool) : (s.putCsn v).env = s.env := rfl
@[simp] theorem State.putCsn_misoFeed (s : State) (v : Bool) : (s.putCsn v).misoFeed = s.misoFeed := rfl
@[simp] theorem State.putCsn_instant (s : State) (v : Bool) : (s.putCsn v).instant = s.instant := rfl
@[simp] theorem State.putCsn_hostLog (s : State) (v : Bool) : (s.putCsn v).hostLog = s.hostLog := rfl
@[simp] theorem State.putCsn_spiLog (s : State) (v : Bool) : (s.putCsn v).spiLog = s.spiLog := rfl

/-! ## putTdo -/

@[simp] theorem State.putTdo_core_fsm (s : State) (v : Bool) : (s.putTdo v).core.fsm = s.core.fsm := rfl
@[simp] theorem State.putTdo_core_head (s : State) (v : Bool) : (s.putTdo v).core.head = s.core.head := rfl
@[simp] theorem State.putTdo_core_bits (s : State) (v : Bool) : (s.putTdo v).core.bits = s.core.bits := rfl
@[simp] theorem State.putTdo_core_mosiQ (s : State) (v : Bool) : (s.putTdo v).core.mosiQ = s.core.mosiQ := rfl
@[simp] theorem State.putTdo_core_csnQ (s : State) (v : Bool) : (s.putTdo v).core.csnQ = s.core.csnQ := rfl
@[simp] theorem State.putTdo_core_tdoQ (s : State) (v : Bool) : (s.putTdo v).core.tdoQ = v := rfl
@[simp] theorem State.putTdo_core_det (s : State) (v : Bool) : (s.putTdo v).core.det = s.core.det := rfl
@[simp] theorem State.putTdo_core_selected (s : State) (v : Bool) : (s.putTdo v).core.selected = s.core.selected := rfl
@[simp] theorem State.putTdo_core_jt (s : State) (v : Bool) : (s.putTdo v).core.jt = s.core.jt := rfl
@[simp] theorem State.putTdo_core_pr (s : State) (v : Bool) : (s.putTdo v).core.pr = s.core.pr := rfl
@[simp] theorem State.putTdo_core_sig (s : State) (v : Bool) : (s.putTdo v).core.sig = s.core.sig := rfl
@[simp] theorem State.putTdo_core_pins (s : State) (v : Bool) : (s.putTdo v).core.pins = s.core.pins := rfl
@[simp] theorem State.putTdo_build (s : State) (v : Bool) : (s.putTdo v).build = s.build := rfl
@[simp] theorem State.putTdo_peers (s : State) (v : Bool) : (s.putTdo v).peers = s.peers := rfl
@[simp] theorem State.putTdo_tck (s : State) (v : Bool) : (s.putTdo v).tck = s.tck := rfl
@[simp] theorem State.putTdo_tdi (s : State) (v : Bool) : (s.putTdo v).tdi = s.tdi := rfl
@[simp] theorem State.putTdo_miso (s : State) (v : Bool) : (s.putTdo v).miso = s.miso := rfl
@[simp] theorem State.putTdo_env (s : State) (v : Bool) : (s.putTdo v).env = s.env := rfl
@[simp] theorem State.putTdo_misoFeed (s : State) (v : Bool) : (s.putTdo v).misoFeed = s.misoFeed := rfl
@[simp] theorem State.putTdo_instant (s : State) (v : Bool) : (s.putTdo v).instant = s.instant := rfl
@[simp] theorem State.putTdo_hostLog (s : State) (v : Bool) : (s.putTdo v).hostLog = s.hostLog := rfl
@[simp] theorem State.putTdo_spiLog (s : State) (v : Bool) : (s.putTdo v).spiLog = s.spiLog := rfl

/-! ## putSignals -/

@[simp] theorem State.putSignals_core_fsm (s : State) (a b c : Bool) : (s.putSignals a b c).core.fsm = s.core.fsm := rfl
@[simp] theorem State.putSignals_core_head (s : State) (a b c : Bool) : (s.putSignals a b c).core.head = s.core.head := rfl
@[simp] theorem State.putSignals_core_bits (s : State) (a b c : Bool) : (s.putSignals a b c).core.bits = s.core.bits := rfl
@[simp] theorem State.putSignals_core_mosiQ (s : State) (a b c : Bool) : (s.putSignals a b c).core.mosiQ = s.core.mosiQ := rfl
@[simp] theorem State.putSignals_core_csnQ (s : State) (a b c : Bool) : (s.putSignals a b c).core.csnQ = s.core.csnQ := rfl
@[simp] theorem State.putSignals_core_tdoQ (s : State) (a b c : Bool) : (s.putSignals a b c).core.tdoQ = s.core.tdoQ := rfl
@[simp] theorem State.putSignals_core_det (s : State) (a b c : Bool) : (s.putSignals a b c).core.det = s.core.det := rfl
@[simp] theorem State.putSignals_core_selected (s : State) (a b c : Bool) : (s.putSignals a b c).core.selected = s.core.selected := rfl
@[simp] theorem State.putSignals_core_jt (s : State) (a b c : Bool) : (s.putSignals a b c).core.jt = s.core.jt := rfl
@[simp] theorem State.putSignals_core_pr (s : State) (a b c : Bool) : (s.putSignals a b c).core.pr = s.core.pr := rfl
@[simp] theorem State.putSignals_core_sig (s : State) (a b c : Bool) : (s.putSignals a b c).core.sig = { sel := a, capture := b, shift := c } := rfl
@[simp] theorem State.putSignals_core_pins (s : State) (a b c : Bool) : (s.putSignals a b c).core.pins = s.core.pins := rfl
@[simp] theorem State.putSignals_build (s : State) (a b c : Bool) : (s.putSignals a b c).build = s.build := rfl
@[simp] theorem State.putSignals_peers (s : State) (a b c : Bool) : (s.putSignals a b c).peers = s.peers := rfl
@[simp] theorem State.putSignals_tck (s : State) (a b c : Bool) : (s.putSignals a b c).tck = s.tck := rfl
@[simp] theorem State.putSignals_tdi (s : State) (a b c : Bool) : (s.putSignals a b c).tdi = s.tdi := rfl
@[simp] theorem State.putSignals_miso (s : State) (a b c : Bool) : (s.putSignals a b c).miso = s.miso := rfl
@[simp] theorem State.putSignals_env (s : State) (a b c : Bool) : (s.putSignals a b c).env = s.env := rfl
@[simp] theorem State.putSignals_misoFeed (s : State) (a b c : Bool) : (s.putSignals a b c).misoFeed = s.misoFeed := rfl
@[simp] theorem State.putSignals_instant (s : State) (a b c : Bool) : (s.putSignals a b c).instant = s.instant := rfl
@[simp] theorem State.putSignals_hostLog (s : State) (a b c : Bool) : (s.putSignals a b c).hostLog = s.hostLog := rfl
@[simp] theorem State.putSignals_spiLog (s : State) (a b c : Bool) : (s.putSignals a b c).spiLog = s.spiLog := rfl

/-! ## putClk -/

@[simp] theorem State.putClk_core_fsm (s : State) (v : Bool) : (s.putClk v).core.fsm = s.core.fsm := rfl
@[simp] theorem State.putClk_core_head (s : State) (v : Bool) : (s.putClk v).core.head = s.core.head := rfl
@[simp] theorem State.putClk_core_bits (s : State) (v : Bool) : (s.putClk v).core.bits = s.core.bits := rfl
@[simp] theorem State.putClk_core_mosiQ (s : State) (v : Bool) : (s.putClk v).core.mosiQ = s.core.mosiQ := rfl
@[simp] theorem State.putClk_core_csnQ (s : State) (v : Bool) : (s.putClk v).core.csnQ = s.core.csnQ := rfl
@[simp] theorem State.putClk_core_tdoQ (s : State) (v : Bool) : (s.putClk v).core.tdoQ = s.core.tdoQ := rfl
@[simp] theorem State.putClk_core_det (s : State) (v : Bool) : (s.putClk v).core.det = s.core.det := rfl
@[simp] theorem State.putClk_core_selected (s : State) (v : Bool) : (s.putClk v).core.selected = s.core.selected := rfl
@[simp] theorem State.putClk_core_jt (s : State) (v : Bool) : (s.putClk v).core.jt = s.core.jt := rfl
@[simp] theorem State.putClk_core_pr (s : State) (v : Bool) : (s.putClk v).core.pr = s.core.pr := rfl
@[simp] theorem State.putClk_core_sig (s : State) (v : Bool) : (s.putClk v).core.sig = s.core.sig := rfl
@[simp] theorem State.putClk_core_pins (s : State) (v : Bool) : (s.putClk v).core.pins = { s.core.pins with clkO := v } := rfl
@[simp] theorem State.putClk_build (s : State) (v : Bool) : (s.putClk v).build = s.build := rfl
@[simp] theorem State.putClk_peers (s : State) (v : Bool) : (s.putClk v).peers = s.peers := rfl
@[simp] theorem State.putClk_tck (s : State) (v : Bool) : (s.putClk v).tck = s.tck := rfl
@[simp] theorem State.putClk_tdi (s : State) (v : Bool) : (s.putClk v).tdi = s.tdi := rfl
@[simp] theorem State.putClk_miso (s : State) (v : Bool) : (s.putClk v).miso = s.miso := rfl
@[simp] theorem State.putClk_env (s : State) (v : Bool) : (s.putClk v).env = s.env := rfl
@[simp] theorem State.putClk_misoFeed (s : State) (v : Bool) : (s.putClk v).misoFeed = s.misoFeed := rfl
@[simp] theorem State.putClk_instant (s : State) (v : Bool) : (s.putClk v).instant = s.instant := rfl
@[simp] theorem State.putClk_hostLog (s : State) (v : Bool) : (s.putClk v).hostLog = s.hostLog := rfl
@[simp] theorem State.putClk_spiLog (s : State) (v : Bool) : (s.putClk v).spiLog = s.spiLog := rfl

/-! ## putEnables -/

@[simp] theorem State.putEnables_core_fsm (s : State) (v : Bool) : (s.putEnables v).core.fsm = s.core.fsm := rfl
@[simp] theorem State.putEnables_core_head (s : State) (v : Bool) : (s.putEnables v).core.head = s.core.head := rfl
@[simp] theorem State.putEnables_core_bits (s : State) (v : Bool) : (s.putEnables v).core.bits = s.core.bits := rfl
@[simp] theorem State.putEnables_core_mosiQ (s : State) (v : Bool) : (s.putEnables v).core.mosiQ = s.core.mosiQ := rfl
@[simp] theorem State.putEnables_core_csnQ (s : State) (v : Bool) : (s.putEnables v).core.csnQ = s.core.csnQ := rfl
@[simp] theorem State.putEnables_core_tdoQ (s : State) (v : Bool) : (s.putEnables v).core.tdoQ = s.core.tdoQ := rfl
@[simp] theorem State.putEnables_core_det (s : State) (v : Bool) : (s.putEnables v).core.det = s.core.det := rfl
@[simp] theorem State.putEnables_core_selected (s : State) (v : Bool) : (s.putEnables v).core.selected = s.core.selected := rfl
@[simp] theorem State.putEnables_core_jt (s : State) (v : Bool) : (s.putEnables v).core.jt = s.core.jt := rfl
@[simp] theorem State.putEnables_core_pr (s : State) (v : Bool) : (s.putEnables v).core.pr = s.core.pr := rfl
@[simp] theorem State.putEnables_core_sig (s : State) (v : Bool) : (s.putEnables v).core.sig = s.core.sig := rfl
@[simp] theorem State.putEnables_core_pins (s : State) (v : Bool) : (s.putEnables v).core.pins = { s.core.pins with csnOe := v, clkOe := v, mosiOe := v } := rfl
@[simp] theorem State.putEnables_build (s : State) (v : Bool) : (s.putEnables v).build = s.build := rfl
@[simp] theorem State.putEnables_peers (s : State) (v : Bool) : (s.putEnables v).peers = s.peers := rfl
@[simp] theorem State.putEnables_tck (s : State) (v : Bool) : (s.putEnables v).tck = s.tck := rfl
@[simp] theorem State.putEnables_tdi (s : State) (v : Bool) : (s.putEnables v).tdi = s.tdi := rfl
@[simp] theorem State.putEnables_miso (s : State) (v : Bool) : (s.putEnables v).miso = s.miso := rfl
@[simp] theorem State.putEnables_env (s : State) (v : Bool) : (s.putEnables v).env = s.env := rfl
@[simp] theorem State.putEnables_misoFeed (s : State) (v : Bool) : (s.putEnables v).misoFeed = s.misoFeed := rfl
@[simp] theorem State.putEnables_instant (s : State) (v : Bool) : (s.putEnables v).instant = s.instant := rfl
@[simp] theorem State.putEnables_hostLog (s : State) (v : Bool) : (s.putEnables v).hostLog = s.hostLog := rfl
@[simp] theorem State.putEnables_spiLog (s : State) (v : Bool) : (s.putEnables v).spiLog = s.spiLog := rfl

/-! ## putMisoOe -/

@[simp] theorem State.putMisoOe_core_fsm (s : State) (v : Bool) : (s.putMisoOe v).core.fsm = s.core.fsm := rfl
@[simp] theorem State.putMisoOe_core_head (s : State) (v : Bool) : (s.putMisoOe v).core.head = s.core.head := rfl
@[simp] theorem State.putMisoOe_core_bits (s : State) (v : Bool) : (s.putMisoOe v).core.bits = s.core.bits := rfl
@[simp] theorem State.putMisoOe_core_mosiQ (s : State) (v : Bool) : (s.putMisoOe v).core.mosiQ = s.core.mosiQ := rfl
@[simp] theorem State.putMisoOe_core_csnQ (s : State) (v : Bool) : (s.putMisoOe v).core.csnQ = s.core.csnQ := rfl
@[simp] theorem State.putMisoOe_core_tdoQ (s : State) (v : Bool) : (s.putMisoOe v).core.tdoQ = s.core.tdoQ := rfl
@[simp] theorem State.putMisoOe_core_det (s : State) (v : Bool) : (s.putMisoOe v).core.det = s.core.det := rfl
@[simp] theorem State.putMisoOe_core_selected (s : State) (v : Bool) : (s.putMisoOe v).core.selected = s.core.selected := rfl
@[simp] theorem State.putMisoOe_core_jt (s : State) (v : Bool) : (s.putMisoOe v).core.jt = s.core.jt := rfl
@[simp] theorem State.putMisoOe_core_pr (s : State) (v : Bool) : (s.putMisoOe v).core.pr = s.core.pr := rfl
@[simp] theorem State.putMisoOe_core_sig (s : State) (v : Bool) : (s.putMisoOe v).core.sig = s.core.sig := rfl
@[simp] theorem State.putMisoOe_core_pins (s : State) (v : Bool) : (s.putMisoOe v).core.pins = { s.core.pins with misoOe := v } := rfl
@[simp] theorem State.putMisoOe_build (s : State) (v : Bool) : (s.putMisoOe v).build = s.build := rfl
@[simp] theorem State.putMisoOe_peers (s : State) (v : Bool) : (s.putMisoOe v).peers = s.peers := rfl
@[simp] theorem State.putMisoOe_tck (s : State) (v : Bool) : (s.putMisoOe v).tck = s.tck := rfl
@[simp] theorem State.putMisoOe_tdi (s : State) (v : Bool) : (s.putMisoOe v).tdi = s.tdi := rfl
@[simp] theorem State.putMisoOe_miso (s : State) (v : Bool) : (s.putMisoOe v).miso = s.miso := rfl
@[simp] theorem State.putMisoOe_env (s : State) (v : Bool) : (s.putMisoOe v).env = s.env := rfl
@[simp] theorem State.putMisoOe_misoFeed (s : State) (v : Bool) : (s.putMisoOe v).misoFeed = s.misoFeed := rfl
@[simp] theorem State.putMisoOe_instant (s : State) (v : Bool) : (s.putMisoOe v).instant = s.instant := rfl
@[simp] theorem State.putMisoOe_hostLog (s : State) (v : Bool) : (s.putMisoOe v).hostLog = s.hostLog := rfl
@[simp] theorem State.putMisoOe_spiLog (s : State) (v : Bool) : (s.putMisoOe v).spiLog = s.spiLog := rfl

/-! ## putAux -/

@[simp] theorem State.putAux_core_fsm (s : State) (v e : Bool) : (s.putAux v e).core.fsm = s.core.fsm := rfl
@[simp] theorem State.putAux_core_head (s : State) (v e : Bool) : (s.putAux v e).core.head = s.core.head := rfl
@[simp] theorem State.putAux_core_bits (s : State) (v e : Bool) : (s.putAux v e).core.bits = s.core.bits := rfl
@[simp] theorem State.putAux_core_mosiQ (s : State) (v e : Bool) : (s.putAux v e).core.mosiQ = s.core.mosiQ := rfl
@[simp] theorem State.putAux_core_csnQ (s : State) (v e : Bool) : (s.putAux v e).core.csnQ = s.core.csnQ := rfl
@[simp] theorem State.putAux_core_tdoQ (s : State) (v e : Bool) : (s.putAux v e).core.tdoQ = s.core.tdoQ := rfl
@[simp] theorem State.putAux_core_det (s : State) (v e : Bool) : (s.putAux v e).core.det = s.core.det := rfl
@[simp] theorem State.putAux_core_selected (s : State) (v e : Bool) : (s.putAux v e).core.selected = s.core.selected := rfl
@[simp] theorem State.putAux_core_jt (s : State) (v e : Bool) : (s.putAux v e).core.jt = s.core.jt := rfl
@[simp] theorem State.putAux_core_pr (s : State) (v e : Bool) : (s.putAux v e).core.pr = s.core.pr := rfl
@[simp] theorem State.putAux_core_sig (s : State) (v e : Bool) : (s.putAux v e).core.sig = s.core.sig := rfl
@[simp] theorem State.putAux_core_pins (s : State) (v e : Bool) : (s.putAux v e).core.pins = { s.core.pins with wpnO := v, wpnOe := e, holdnO := v, holdnOe := e } := rfl
@[simp] theorem State.putAux_build (s : State) (v e : Bool) : (s.putAux v e).build = s.build := rfl
@[simp] theorem State.putAux_peers (s : State) (v e : Bool) : (s.putAux v e).peers = s.peers := rfl
@[simp] theorem State.putAux_tck (s : State) (v e : Bool) : (s.putAux v e).tck = s.tck := rfl
@[simp] theorem State.putAux_tdi (s : State) (v e : Bool) : (s.putAux v e).tdi = s.tdi := rfl
@[simp] theorem State.putAux_miso (s : State) (v e : Bool) : (s.putAux v e).miso = s.miso := rfl
@[simp] theorem State.putAux_env (s : State) (v e : Bool) : (s.putAux v e).env = s.env := rfl
@[simp] theorem State.putAux_misoFeed (s : State) (v e : Bool) : (s.putAux v e).misoFeed = s.misoFeed := rfl
@[simp] theorem State.putAux_instant (s : State) (v e : Bool) : (s.putAux v e).instant = s.instant := rfl
@[simp] theorem State.putAux_hostLog (s : State) (v e : Bool) : (s.putAux v e).hostLog = s.hostLog := rfl
@[simp] theorem State.putAux_spiLog (s : State) (v e : Bool) : (s.putAux v e).spiLog = s.spiLog := rfl

/-! ## focus -/

@[simp] theorem State.focus_core (s : State) (c : Core) : (s.focus c).core = c := rfl
@[simp] theorem State.focus_self (s : State) : s.focus s.core = s := rfl
@[simp] theorem State.focus_build (s : State) (c : Core) : (s.focus c).build = s.build := rfl
@[simp] theorem State.focus_peers (s : State) (c : Core) : (s.focus c).peers = s.peers := rfl
@[simp] theorem State.focus_tck (s : State) (c : Core) : (s.focus c).tck = s.tck := rfl
@[simp] theorem State.focus_tdi (s : State) (c : Core) : (s.focus c).tdi = s.tdi := rfl
@[simp] theorem State.focus_miso (s : State) (c : Core) : (s.focus c).miso = s.miso := rfl
@[simp] theorem State.focus_env (s : State) (c : Core) : (s.focus c).env = s.env := rfl
@[simp] theorem State.focus_misoFeed (s : State) (c : Core) : (s.focus c).misoFeed = s.misoFeed := rfl
@[simp] theorem State.focus_instant (s : State) (c : Core) : (s.focus c).instant = s.instant := rfl
@[simp] theorem State.focus_hostLog (s : State) (c : Core) : (s.focus c).hostLog = s.hostLog := rfl
@[simp] theorem State.focus_spiLog (s : State) (c : Core) : (s.focus c).spiLog = s.spiLog := rfl

/-! ## drive -/

@[simp] theorem State.drive_core_fsm (s : State) (l : Levels) : (s.drive l).core.fsm = s.core.fsm := rfl
@[simp] theorem State.drive_core_head (s : State) (l : Levels) : (s.drive l).core.head = s.core.head := rfl
@[simp] theorem State.drive_core_bits (s : State) (l : Levels) : (s.drive l).core.bits = s.core.bits := rfl
@[simp] theorem State.drive_core_mosiQ (s : State) (l : Levels) : (s.drive l).core.mosiQ = s.core.mosiQ := rfl
@[simp] theorem State.drive_core_csnQ (s : State) (l : Levels) : (s.drive l).core.csnQ = s.core.csnQ := rfl
@[simp] theorem State.drive_core_tdoQ (s : State) (l : Levels) : (s.drive l).core.tdoQ = s.core.tdoQ := rfl
@[simp] theorem State.drive_core_det (s : State) (l : Levels) : (s.drive l).core.det = s.core.det := rfl
@[simp] theorem State.drive_core_selected (s : State) (l : Levels) : (s.drive l).core.selected = s.core.selected := rfl
@[simp] theorem State.drive_core_jt (s : State) (l : Levels) : (s.drive l).core.jt = l.jt := rfl
@[simp] theorem State.drive_core_pr (s : State) (l : Levels) : (s.drive l).core.pr = l.pr := rfl
@[simp] theorem State.drive_core_sig (s : State) (l : Levels) : (s.drive l).core.sig = s.core.sig := rfl
@[simp] theorem State.drive_core_pins (s : State) (l : Levels) : (s.drive l).core.pins = s.core.pins := rfl
@[simp] theorem State.drive_build (s : State) (l : Levels) : (s.drive l).build = s.build := rfl
@[simp] theorem State.drive_peers (s : State) (l : Levels) : (s.drive l).peers = drivePeers s.peers l.peers := rfl
@[simp] theorem State.drive_tck (s : State) (l : Levels) : (s.drive l).tck = l.tck := rfl
@[simp] theorem State.drive_tdi (s : State) (l : Levels) : (s.drive l).tdi = l.tdi := rfl
@[simp] theorem State.drive_miso (s : State) (l : Levels) : (s.drive l).miso = l.miso := rfl
@[simp] theorem State.drive_env (s : State) (l : Levels) : (s.drive l).env = s.env := rfl
@[simp] theorem State.drive_misoFeed (s : State) (l : Levels) : (s.drive l).misoFeed = s.misoFeed := rfl
@[simp] theorem State.drive_instant (s : State) (l : Levels) : (s.drive l).instant = s.instant := rfl
@[simp] theorem State.drive_hostLog (s : State) (l : Levels) : (s.drive l).hostLog = s.hostLog := rfl
@[simp] theorem State.drive_spiLog (s : State) (l : Levels) : (s.drive l).spiLog = s.spiLog := rfl
@[simp] theorem Core.drive_fsm (c : Core) (j : JtagIn) (p : PrimIn) : (c.drive j p).fsm = c.fsm := rfl
@[simp] theorem Core.drive_head (c : Core) (j : JtagIn) (p : PrimIn) : (c.drive j p).head = c.head := rfl
@[simp] theorem Core.drive_bits (c : Core) (j : JtagIn) (p : PrimIn) : (c.drive j p).bits = c.bits := rfl
@[simp] theorem Core.drive_mosiQ (c : Core) (j : JtagIn) (p : PrimIn) : (c.drive j p).mosiQ = c.mosiQ := rfl
@[simp] theorem Core.drive_csnQ (c : Core) (j : JtagIn) (p : PrimIn) : (c.drive j p).csnQ = c.csnQ := rfl
@[simp] theorem Core.drive_tdoQ (c : Core) (j : JtagIn) (p : PrimIn) : (c.drive j p).tdoQ = c.tdoQ := rfl
@[simp] theorem Core.drive_det (c : Core) (j : JtagIn) (p : PrimIn) : (c.drive j p).det = c.det := rfl
@[simp] theorem Core.drive_selected (c : Core) (j : JtagIn) (p : PrimIn) : (c.drive j p).selected = c.selected := rfl
@[simp] theorem Core.drive_jt (c : Core) (j : JtagIn) (p : PrimIn) : (c.drive j p).jt = j := rfl
@[simp] theorem Core.drive_pr (c : Core) (j : JtagIn) (p : PrimIn) : (c.drive j p).pr = p := rfl
@[simp] theorem Core.drive_sig (c : Core) (j : JtagIn) (p : PrimIn) : (c.drive j p).sig = c.sig := rfl
@[simp] theorem Core.drive_pins (c : Core) (j : JtagIn) (p : PrimIn) : (c.drive j p).pins = c.pins := rfl

end Sys2Proof.Machine
end

