-- ==== Sys2Proof/Laws/Ops.lean ====
section
/-! SUPPORT. What the shared operations of Machine/Ops.lean can do: outcomes in sequence, the arithmetic of rules R109 and R111,
running an operation in every instance, and driving input levels. -/

namespace Sys2Proof.Machine

/-! ## Outcomes in sequence -/

@[simp] theorem andThen_next {σ τ : Type} (s : σ) (f : σ → Host.Outcome τ Fault Refusal) : andThen (.next s) f = f s := rfl

@[simp] theorem andThen_refused {σ τ : Type} (r : Refusal) (f : σ → Host.Outcome τ Fault Refusal) :
    andThen (.refused r) f = .refused r := rfl

/-- A sequence answers a next state exactly when both parts do. -/
theorem andThen_eq_next {σ τ : Type} {o : Host.Outcome σ Fault Refusal} {f : σ → Host.Outcome τ Fault Refusal} {t : τ} :
    andThen o f = .next t ↔ ∃ s, o = .next s ∧ f s = .next t := by
  cases o <;> simp [andThen]

/-- Sequences associate. -/
theorem andThen_assoc {σ τ υ : Type} (o : Host.Outcome σ Fault Refusal) (f : σ → Host.Outcome τ Fault Refusal)
    (g : τ → Host.Outcome υ Fault Refusal) : andThen (andThen o f) g = andThen o (fun s => andThen (f s) g) := by
  cases o <;> rfl

/-! ## Arithmetic -/

/-- The accumulator never leaves its `W` bits. -/
theorem shl1_lt (w v : Nat) (b : Bool) : shl1 w v b < 2 ^ w := Nat.mod_lt _ (Nat.two_pow_pos w)

/-- Only the low `W - 1` bits of the old value survive a shift. -/
theorem shl1_mod (w v : Nat) (b : Bool) : shl1 w (v % 2 ^ w) b = shl1 w v b := by
  unfold shl1
  rw [Nat.add_mod, Nat.mul_mod, Nat.mod_mod, ← Nat.mul_mod, ← Nat.add_mod]

/-- The bit shifted in is bit 0. -/
theorem shl1_testBit_zero {w : Nat} (hw : 1 ≤ w) (v : Nat) (b : Bool) : (shl1 w v b).testBit 0 = b := by
  unfold shl1
  rw [Nat.testBit_mod_two_pow]
  cases b <;> simp [Nat.testBit_zero]
  omega

/-- Every other bit moves up by one place, and the top one falls off. -/
theorem shl1_testBit_succ (w v i : Nat) (b : Bool) :
    (shl1 w v b).testBit (i + 1) = (decide (i + 1 < w) && v.testBit i) := by
  unfold shl1
  rw [Nat.testBit_mod_two_pow, Nat.testBit_succ]
  congr 2
  cases b <;> simp
  omega

theorem finish_of_ne {b : Build} {v : Nat} (h : v ≠ 0) : finish b v = (.transfer, b.w - 1, v) := by
  simp [finish, h]

theorem finish_zero (b : Build) :
    finish b 0 = (match b.zeroHdr with | .idleDirect => Fsm.idle | .oneTick => .transfer, b.w - 1, 0) := by
  cases h : b.zeroHdr <;> simp [finish, h]

/-! ## Every instance -/

/-- What an operation that touches only the instance in focus does over a list of instances. -/
theorem overPeers_eq {f : State → Host.Outcome State Fault Refusal} {g : Core → Core} {s : State}
    (h : ∀ c, ∃ t, f (s.focus c) = .next t ∧ t.core = g c) (cs : List Core) : overPeers f s cs = .next (cs.map g) := by
  induction cs with
  | nil => rfl
  | cons c cs ih =>
    obtain ⟨t, ht, hc⟩ := h c
    simp [overPeers, ht, ih, hc]

/-- What it does in every instance: the same, to each. -/
theorem overAll_eq {f : State → Host.Outcome State Fault Refusal} {g : Core → Core} {s : State}
    (h : ∀ c, ∃ t, f (s.focus c) = .next t ∧ t.core = g c) :
    overAll f s = .next { s with core := g s.core, peers := s.peers.map g } := by
  obtain ⟨t, ht, hc⟩ := h s.core
  rw [State.focus_self] at ht
  simp [overAll, ht, overPeers_eq h, hc]

/-! ## Input levels -/

@[simp] theorem drivePeers_length (cs : List Core) (fs : List (JtagIn × PrimIn)) :
    (drivePeers cs fs).length = cs.length := by
  induction cs generalizing fs with
  | nil => rfl
  | cons c cs ih => cases fs <;> simp [drivePeers, ih]

@[simp] theorem drivePeers_nil (cs : List Core) : drivePeers cs [] = cs := by cases cs <;> rfl

/-- A driven instance is an instance there was, with some input levels of its own. -/
theorem mem_drivePeers {cs : List Core} {fs : List (JtagIn × PrimIn)} {c : Core} (h : c ∈ drivePeers cs fs) :
    ∃ c' ∈ cs, ∃ j p, c = c'.drive j p := by
  induction cs generalizing fs with
  | nil => simp [drivePeers] at h
  | cons d ds ih =>
    cases fs with
    | nil => exact ⟨c, by simpa [drivePeers] using h, c.jt, c.pr, rfl⟩
    | cons f fs =>
      rcases List.mem_cons.1 h with rfl | h
      · exact ⟨d, by simp, f.1, f.2, rfl⟩
      · obtain ⟨c', hc', j, p, e⟩ := ih h
        exact ⟨c', by simp [hc'], j, p, e⟩

/-- A driven instance keeps its place and takes the levels given to that place, or keeps its own where none are given. -/
theorem getElem?_drivePeers {cs : List Core} {fs : List (JtagIn × PrimIn)} {i : Nat} {c : Core} (h : cs[i]? = some c) :
    (drivePeers cs fs)[i]? = some (c.drive (fs[i]?.getD (c.jt, c.pr)).1 (fs[i]?.getD (c.jt, c.pr)).2) := by
  induction cs generalizing fs i with
  | nil => simp at h
  | cons d ds ih =>
    cases fs with
    | nil => simpa [Core.drive] using h
    | cons f fs =>
      cases i with
      | zero => simp_all [drivePeers]
      | succ i => simpa [drivePeers] using ih (by simpa using h)

end Sys2Proof.Machine
end

