-- ==== Sys2Proof/Laws/Edge.lean ====
section
/-! SUPPORT. What an edge, a settling, a change of input levels and a tick can do: each answers a next state, and the lemmas say
which. Proofs about `step` cite these instead of unfolding the operations again. -/

namespace Sys2Proof.Machine

/-! ## One instance -/

/-- What a Domain-A operation writes: three registers of the instance in focus. -/
theorem runA_eq (o : AOp) (s : State) : ∃ f h n, runA o s = .next (s.putFsm f h n) := by
  cases o <;> exact ⟨_, _, _, rfl⟩

/-- What a detector operation writes: two registers of the instance in focus. -/
theorem runDet_eq (o : DetOp) (s : State) : ∃ d v, runDet o s = .next (s.putDet d v) := by
  cases o <;> exact ⟨_, _, rfl⟩

/-- Domain A executes the operation its dispatch word selects. -/
theorem edgeA_eq (s : State) : edgeA s = runA (AOp.select s.rstA s.core.fsm s.trig s.last s.zero) s := by
  rw [edgeA, decodeA_dWord]

/-- A LATCHED detector executes the operation its dispatch word selects. -/
theorem edgeDet_latched {s : State} (h : s.build.detMode = .latched) :
    edgeDet s = runDet (DetOp.select s.core.pr.rstn s.core.det (idleEvent s.build s.core)) s := by
  simp [edgeDet, h, decodeDet_tWord]

/-- A PASSTHROUGH detector has no register. -/
theorem edgeDet_passthrough {s : State} (h : s.build.detMode = .passthrough) : edgeDet s = .next s := by
  simp [edgeDet, h]

/-- The detector writes at most its two registers. -/
theorem edgeDet_eq (s : State) : ∃ d v, edgeDet s = .next (s.putDet d v) := by
  cases h : s.build.detMode with
  | passthrough => exact ⟨s.core.det, s.core.selected, edgeDet_passthrough h⟩
  | latched => rw [edgeDet_latched h]; exact runDet_eq ..

/-- The instance after a rising edge. -/
def State.risen (s : State) : Core :=
  match riseOne s with
  | .next t => t.core
  | .fault _ => s.core
  | .refused _ => s.core

/-- A rising edge answers a next state, changes the instance in focus only, and there exactly the registers that the detector
operation, the Domain-A operation, MOSI.REG and CSN.REG write, all from the state before. -/
theorem riseOne_eq (s : State) :
    riseOne s = .next (s.focus s.risen) ∧
    ∃ d a, edgeDet s = .next d ∧ edgeA s = .next a ∧
      s.risen = { s.core with
        det := d.core.det, selected := d.core.selected,
        fsm := a.core.fsm, head := a.core.head, bits := a.core.bits,
        mosiQ := s.tdi, csnQ := decide (s.core.fsm ≠ .transfer) } := by
  obtain ⟨d, v, hd⟩ := edgeDet_eq s
  obtain ⟨f, h, n, ha⟩ := runA_eq (AOp.select s.rstA s.core.fsm s.trig s.last s.zero) s
  rw [← edgeA_eq] at ha
  have e : riseOne s = .next (s.focus { s.core with
      det := d, selected := v, fsm := f, head := h, bits := n, mosiQ := s.tdi,
      csnQ := decide (s.core.fsm ≠ .transfer) }) := by
    simp [riseOne, hd, ha, execMosiReg, execCsnReg, State.focus]
  refine ⟨?_, _, _, hd, ha, ?_⟩ <;> simp [State.risen, e]

/-- The instance after a rising edge depends on the build, on the instance and on `tdi`, and on nothing else of the state. -/
theorem risen_congr {s s' : State} (hb : s.build = s'.build) (hc : s.core = s'.core) (ht : s.tdi = s'.tdi) :
    s.risen = s'.risen := by
  obtain ⟨-, d, a, hd, ha, e⟩ := riseOne_eq s
  obtain ⟨-, d', a', hd', ha', e'⟩ := riseOne_eq s'
  have hA : a.core = a'.core := by
    rw [edgeA_eq] at ha ha'
    have hsel : AOp.select s.rstA s.core.fsm s.trig s.last s.zero =
        AOp.select s'.rstA s'.core.fsm s'.trig s'.last s'.zero := by
      simp [State.rstA, State.trig, State.last, State.zero, hb, hc, ht]
    rw [hsel] at ha
    revert ha ha'
    cases AOp.select s'.rstA s'.core.fsm s'.trig s'.last s'.zero <;> rintro ⟨⟩ ⟨⟩ <;>
      simp [State.putFsm, State.finishHeader, hb, hc, ht]
  have hD : d.core.det = d'.core.det ∧ d.core.selected = d'.core.selected := by
    cases hm : s.build.detMode with
    | passthrough =>
      rw [edgeDet_passthrough hm] at hd
      rw [edgeDet_passthrough (hb ▸ hm)] at hd'
      cases hd; cases hd'; simp [hc]
    | latched =>
      rw [edgeDet_latched hm, hb, hc] at hd
      rw [edgeDet_latched (hb ▸ hm)] at hd'
      revert hd hd'
      cases DetOp.select s'.core.pr.rstn s'.core.det (idleEvent s'.build s'.core) <;> rintro ⟨⟩ ⟨⟩ <;>
        simp [State.putDet, hc]
  rw [e, e', hA, hD.1, hD.2, hc, ht]

/-- The instance after the combinational operations. -/
def Core.settledIn (b : Build) (tck : Bool) (c : Core) : Core :=
  { c with
    sig := c.detSignals b
    pins := { c.pins with
      clkO := !tck, csnOe := (c.detSignals b).sel, clkOe := (c.detSignals b).sel, mosiOe := (c.detSignals b).sel,
      misoOe := false, wpnO := b.hasAux || c.pins.wpnO, wpnOe := b.hasAux || c.pins.wpnOe,
      holdnO := b.hasAux || c.pins.holdnO, holdnOe := b.hasAux || c.pins.holdnOe } }

/-- The combinational operations answer a next state and change only the signals and pins of the instance in focus. -/
theorem settleOne_eq (s : State) : settleOne s = .next (s.focus (s.core.settledIn s.build s.tck)) := by
  cases hm : s.build.detMode <;> cases ha : s.build.hasAux <;>
    simp [settleOne, detOutputs, auxOutputs, hm, ha, execDetPass, execDetOut, execClkInv, execOeSel, execMisoIn, execAuxHigh,
      Core.settledIn, Core.detSignals, Core.capturing, Core.shifting, State.focus, State.putSignals, State.putClk,
      State.putEnables, State.putMisoOe, State.putAux]

/-- An instance that has settled satisfies every combinational assignment. -/
theorem settledIn_settled (b : Build) (tck : Bool) (c : Core) : (c.settledIn b tck).Settled b tck := by
  cases hm : b.detMode <;> simp +contextual [Core.Settled, Core.settledIn, Core.detSignals, hm]

/-- Settling writes no register. -/
theorem settledIn_sameRegisters (b : Build) (tck : Bool) (c : Core) : SameRegisters c (c.settledIn b tck) := by
  simp [SameRegisters, Core.settledIn]

/-! ## All instances -/

/-- A rising edge of `tck`. -/
theorem rise_eq (s : State) :
    rise s = .next { s with
      core := s.risen, peers := s.peers.map (fun c => (s.focus c).risen), hostLog := s.core.tdoQ :: s.hostLog } := by
  have h := overAll_eq (f := riseOne) (g := fun c => (s.focus c).risen) (s := s)
    (fun c => ⟨_, (riseOne_eq (s.focus c)).1, rfl⟩)
  simp [rise, h, Core.tdo]

/-- A falling edge of `tck`. -/
theorem fall_eq (s : State) :
    fall s = .next { s with
      core := { s.core with tdoQ := s.miso }, peers := s.peers.map (fun c => { c with tdoQ := s.miso }),
      spiLog := s.core.spiSample :: s.spiLog } := by
  have h := overAll_eq (f := fallOne) (g := fun c => { c with tdoQ := s.miso }) (s := s)
    (fun c => ⟨_, rfl, rfl⟩)
  simp [fall, h]

/-- The state after the edge that a change of `tck` to the given level is. -/
def State.clocked (s : State) (tck : Bool) : State :=
  if s.tck = false ∧ tck = true then
    { s with core := s.risen, peers := s.peers.map (fun c => (s.focus c).risen), hostLog := s.core.tdoQ :: s.hostLog }
  else if s.tck = true ∧ tck = false then
    { s with
      core := { s.core with tdoQ := s.miso }, peers := s.peers.map (fun c => { c with tdoQ := s.miso }),
      spiLog := s.core.spiSample :: s.spiLog }
  else s

theorem clockEdge_eq (tck : Bool) (s : State) : clockEdge tck s = .next (s.clocked tck) := by
  unfold clockEdge State.clocked
  split
  · exact rise_eq s
  · split
    · exact fall_eq s
    · rfl

/-- The state after a change of input levels. -/
def State.after (s : State) (l : Levels) : State :=
  let t := (s.clocked l.tck).drive l
  { t with
    core := t.core.settledIn t.build t.tck, peers := t.peers.map (Core.settledIn t.build t.tck), instant := s.instant + 1 }

/-- A change of input levels answers a next state: the edge in it on the levels before, then the new levels, then everything
combinational settled on them. -/
theorem applyLevels_eq (l : Levels) (s : State) : applyLevels l s = .next (s.after l) := by
  have h := overAll_eq (f := settleOne) (g := Core.settledIn (s.clocked l.tck).build l.tck) (s := (s.clocked l.tck).drive l)
    (fun c => ⟨_, settleOne_eq _, rfl⟩)
  simp [applyLevels, clockEdge_eq, h, State.after]

@[simp] theorem clocked_build (s : State) (tck : Bool) : (s.clocked tck).build = s.build := by
  unfold State.clocked; split <;> [rfl; split <;> rfl]

@[simp] theorem clocked_env (s : State) (tck : Bool) : (s.clocked tck).env = s.env := by
  unfold State.clocked; split <;> [rfl; split <;> rfl]

@[simp] theorem clocked_misoFeed (s : State) (tck : Bool) : (s.clocked tck).misoFeed = s.misoFeed := by
  unfold State.clocked; split <;> [rfl; split <;> rfl]

@[simp] theorem clocked_peers_length (s : State) (tck : Bool) : (s.clocked tck).peers.length = s.peers.length := by
  unfold State.clocked; split <;> [simp; split <;> simp]

@[simp] theorem after_build (s : State) (l : Levels) : (s.after l).build = s.build := by simp [State.after]
@[simp] theorem after_env (s : State) (l : Levels) : (s.after l).env = s.env := by simp [State.after]
@[simp] theorem after_misoFeed (s : State) (l : Levels) : (s.after l).misoFeed = s.misoFeed := by simp [State.after]
@[simp] theorem after_tck (s : State) (l : Levels) : (s.after l).tck = l.tck := by simp [State.after]
@[simp] theorem after_tdi (s : State) (l : Levels) : (s.after l).tdi = l.tdi := by simp [State.after]
@[simp] theorem after_miso (s : State) (l : Levels) : (s.after l).miso = l.miso := by simp [State.after]
@[simp] theorem after_instant (s : State) (l : Levels) : (s.after l).instant = s.instant + 1 := by simp [State.after]
@[simp] theorem after_peers_length (s : State) (l : Levels) : (s.after l).peers.length = s.peers.length := by
  simp [State.after]

/-- A change of levels with a rising edge in it. -/
theorem after_rise {s : State} {l : Levels} (h : s.tck = false) (hl : l.tck = true) :
    s.after l = { s with
      tck := true, tdi := l.tdi, miso := l.miso
      core := (s.risen.drive l.jt l.pr).settledIn s.build true
      peers := (drivePeers (s.peers.map fun c => (s.focus c).risen) l.peers).map (Core.settledIn s.build true)
      hostLog := s.core.tdoQ :: s.hostLog, instant := s.instant + 1 } := by
  simp [State.after, State.clocked, h, hl, State.drive]

/-- A change of levels with a falling edge in it. -/
theorem after_fall {s : State} {l : Levels} (h : s.tck = true) (hl : l.tck = false) :
    s.after l = { s with
      tck := false, tdi := l.tdi, miso := l.miso
      core := ({ s.core with tdoQ := s.miso }.drive l.jt l.pr).settledIn s.build false
      peers := (drivePeers (s.peers.map fun c => { c with tdoQ := s.miso }) l.peers).map (Core.settledIn s.build false)
      spiLog := s.core.spiSample :: s.spiLog, instant := s.instant + 1 } := by
  simp [State.after, State.clocked, h, hl, State.drive]

/-- A change of levels with no edge in it. -/
theorem after_still {s : State} {l : Levels} (h : l.tck = s.tck) :
    s.after l = { s with
      tdi := l.tdi, miso := l.miso
      core := (s.core.drive l.jt l.pr).settledIn s.build s.tck
      peers := (drivePeers s.peers l.peers).map (Core.settledIn s.build s.tck)
      instant := s.instant + 1 } := by
  have hs : s.clocked l.tck = s := by cases e : s.tck <;> simp [State.clocked, h, e]
  rw [State.after, hs]
  simp [State.drive, h]

/-- What the edge in a change of levels leaves of an instance. -/
def State.clockedOne (s : State) (tck : Bool) (c : Core) : Core :=
  if s.tck = false ∧ tck = true then (s.focus c).risen
  else if s.tck = true ∧ tck = false then { c with tdoQ := s.miso }
  else c

/-- An edge drives no input level of an instance. -/
theorem clockedOne_inputs (s : State) (tck : Bool) (c : Core) : (s.clockedOne tck c).jt = c.jt ∧ (s.clockedOne tck c).pr = c.pr := by
  unfold State.clockedOne
  split
  · obtain ⟨-, d, a, -, -, e⟩ := riseOne_eq (s.focus c)
    simp [e]
  · split <;> exact ⟨rfl, rfl⟩

/-- A change of levels, in the instance in focus: the edge in it, then its new levels, then settling. -/
theorem after_core (s : State) (l : Levels) :
    (s.after l).core = ((s.clockedOne l.tck s.core).drive l.jt l.pr).settledIn s.build l.tck := by
  cases h : s.tck <;> cases hl : l.tck <;> simp [State.after, State.clocked, State.clockedOne, State.drive, h, hl]

/-- A change of levels, in another instance: the same, with the levels given to its place, or its own where none are given. -/
theorem after_peer {s : State} {i : Nat} {c : Core} (l : Levels) (h : s.peers[i]? = some c) :
    (s.after l).peers[i]? = some (((s.clockedOne l.tck c).drive
      (l.peers[i]?.getD (c.jt, c.pr)).1 (l.peers[i]?.getD (c.jt, c.pr)).2).settledIn s.build l.tck) := by
  have hp : (s.clocked l.tck).peers[i]? = some (s.clockedOne l.tck c) := by
    cases ht : s.tck <;> cases l.tck <;> simp [State.clocked, State.clockedOne, ht, h]
  obtain ⟨hj, hr⟩ := clockedOne_inputs s l.tck c
  have hd := getElem?_drivePeers (fs := l.peers) hp
  rw [hj, hr] at hd
  simp [State.after, State.drive, hd]

/-- What holds of every instance across the edge in a change of levels, and does not read the inputs, the signals and the pins after
it, holds across the whole change. -/
theorem after_eachTo {s : State} {R : Core → Core → Prop} (l : Levels) (h : ∀ c, R c (s.clockedOne l.tck c))
    (hr : ∀ c d j p, R c d → R c ((d.drive j p).settledIn s.build l.tck)) : s.EachTo (s.after l) R := by
  refine ⟨?_, after_peers_length s l, fun i c hc => ⟨_, after_peer l hc, hr _ _ _ _ (h c)⟩⟩
  rw [after_core]
  exact hr _ _ _ _ (h s.core)

/-- After a change of levels the input levels are the new ones. -/
theorem after_takesLevels (s : State) (l : Levels) : TakesLevels s (s.after l) l := by
  refine ⟨after_tck s l, after_tdi s l, after_miso s l, by rw [after_core]; rfl, by rw [after_core]; rfl, fun i c hc =>
    ⟨_, after_peer l hc, fun f hf => ?_, fun hf => ?_⟩⟩ <;> simp [hf, Core.settledIn, Core.drive]

/-- A property of an instance that a rising edge keeps, and that depends neither on the inputs, the signals and the pins nor on
`tdo_q`, is kept in every instance by every change of levels. -/
theorem after_everywhere {s : State} {Q : Core → Prop} (l : Levels)
    (hr : ∀ c ∈ s.core :: s.peers, Q c → Q (s.focus c).risen)
    (hq : ∀ c d v, SameRegisters { c with tdoQ := v } d → Q c → Q d) (h : s.Everywhere Q) : (s.after l).Everywhere Q := by
  have drop : ∀ (c d : Core), SameRegisters c d → Q c → Q d := fun c d hd => hq c d c.tdoQ hd
  have out : ∀ (c : Core) j p t, Q c → Q ((c.drive j p).settledIn s.build t) := fun c j p t =>
    drop c _ (by simp [SameRegisters, Core.settledIn, Core.drive])
  have outs : ∀ (cs : List Core) fs t, (∀ c ∈ cs, Q c) → ∀ c ∈ (drivePeers cs fs).map (Core.settledIn s.build t), Q c := by
    intro cs fs t hcs c hc
    obtain ⟨d, hd, rfl⟩ := List.mem_map.1 hc
    obtain ⟨e, he, j, p, rfl⟩ := mem_drivePeers hd
    exact out e j p t (hcs e he)
  have fell : ∀ c : Core, Q c → Q { c with tdoQ := s.miso } := fun c => hq c _ s.miso (by simp [SameRegisters])
  obtain ⟨hc, hp⟩ := h
  cases ht : s.tck <;> cases hl : l.tck
  · rw [after_still (by rw [ht, hl])]
    exact ⟨out _ _ _ _ hc, outs _ _ _ hp⟩
  · rw [after_rise ht hl]
    refine ⟨out _ _ _ _ (by simpa using hr s.core (by simp) hc), outs _ _ _ fun c hm => ?_⟩
    obtain ⟨d, hd, rfl⟩ := List.mem_map.1 hm
    exact hr d (by simp [hd]) (hp d hd)
  · rw [after_fall ht hl]
    refine ⟨out _ _ _ _ (fell _ hc), outs _ _ _ fun c hm => ?_⟩
    obtain ⟨d, hd, rfl⟩ := List.mem_map.1 hm
    exact fell d (hp d hd)
  · rw [after_still (by rw [ht, hl])]
    exact ⟨out _ _ _ _ hc, outs _ _ _ hp⟩

/-! ## Ticks -/

/-- Several changes of input levels answer a next state. -/
theorem applyAll_eq (ls : List Levels) (s : State) : applyAll ls s = .next (ls.foldl State.after s) := by
  induction ls generalizing s with
  | nil => rfl
  | cons l ls ih => simp [applyAll, applyLevels_eq, ih]

theorem applyAll_append (ls ls' : List Levels) (s : State) :
    applyAll (ls ++ ls') s = andThen (applyAll ls s) (applyAll ls') := by
  simp [applyAll_eq]

/-- One tick answers a next state. -/
theorem runTick_eq (t : TickLine) (s : State) : runTick t s = .next ((t.changes s.miso).foldl State.after s) :=
  applyAll_eq ..

/-- Ticks answer a next state. -/
theorem runTicks_next (ts : List TickLine) (s : State) : ∃ u, runTicks ts s = .next u := by
  induction ts generalizing s with
  | nil => exact ⟨s, rfl⟩
  | cons t ts ih =>
    obtain ⟨u, hu⟩ := ih ((t.changes s.miso).foldl State.after s)
    exact ⟨u, by simp [runTicks, runTick_eq, hu]⟩

/-- The ticks of a stream item answer a next state. -/
theorem itemTicks_next (bits : List Bool) (s : State) : ∃ u, itemTicks bits s = .next u := by
  induction bits generalizing s with
  | nil => exact ⟨s, rfl⟩
  | cons b bs ih =>
    obtain ⟨u, hu⟩ := ih (((TickLine.changes { tdi := b, miso := s.misoFeed.headD false } s.miso)).foldl State.after
      { s with misoFeed := s.misoFeed.tail })
    exact ⟨u, by rw [itemTicks, itemTick, runTick_eq, andThen_next, hu]⟩

theorem runTicks_append (ts ts' : List TickLine) (s : State) :
    runTicks (ts ++ ts') s = andThen (runTicks ts s) (runTicks ts') := by
  induction ts generalizing s with
  | nil => rfl
  | cons t ts ih => simp [runTicks, runTick_eq, ih]

theorem itemTicks_append (bs bs' : List Bool) (s : State) :
    itemTicks (bs ++ bs') s = andThen (itemTicks bs s) (itemTicks bs') := by
  induction bs generalizing s with
  | nil => rfl
  | cons b bs ih => simp [itemTicks, itemTick, runTick_eq, ih]

/-- What one step does: nothing, a change of input levels, or a stream item. -/
theorem step_cases (s : State) :
    (s.env = [] ∧ step s = .next s) ∨
    (∃ l rest, s.env = .levels l :: rest ∧ step s = .next ({ s with env := rest }.after l)) ∨
    (∃ rest, s.env = .nop :: rest ∧ step s = itemTick false { s with env := rest }) ∨
    (∃ h body rest, s.env = .xfer h body :: rest ∧
      step s = itemTicks (frameBits s.build.w h body) { s with env := rest }) := by
  unfold step
  split
  · rename_i h; exact .inl ⟨h, rfl⟩
  · rename_i l rest h; exact .inr (.inl ⟨l, rest, h, applyLevels_eq ..⟩)
  · rename_i rest h; exact .inr (.inr (.inl ⟨rest, h, rfl⟩))
  · rename_i h body rest e; exact .inr (.inr (.inr ⟨h, body, rest, e, rfl⟩))

/-- What every change of input levels keeps, the ticks of a stream item keep. -/
theorem itemTicks_preserves {P : State → Prop} (ha : ∀ s l, P s → P (s.after l))
    (hf : ∀ s f, P s → P ({ s with misoFeed := f } : State)) {bits : List Bool} {s t : State} (hs : P s)
    (h : itemTicks bits s = .next t) : P t := by
  induction bits generalizing s with
  | nil => cases h; exact hs
  | cons b bs ih =>
    rw [itemTicks, itemTick, runTick_eq, andThen_next] at h
    refine ih ?_ h
    have key : ∀ (ls : List Levels) (u : State), P u → P (ls.foldl State.after u) := by
      intro ls
      induction ls with
      | nil => exact fun u hu => hu
      | cons l ls ih => exact fun u hu => ih _ (ha u l hu)
    exact key _ _ (hf s _ hs)

/-- An invariant of the machine: what every change of input levels keeps, whatever the queues hold, every step keeps. -/
theorem step_preserves {P : State → Prop} (ha : ∀ s l, P s → P (s.after l))
    (hf : ∀ s f, P s → P ({ s with misoFeed := f } : State)) (he : ∀ s e, P s → P ({ s with env := e } : State))
    {s t : State} (hs : P s) (h : step s = .next t) : P t := by
  rcases step_cases s with ⟨-, e⟩ | ⟨l, rest, -, e⟩ | ⟨rest, -, e⟩ | ⟨k, body, rest, -, e⟩ <;> rw [e] at h
  · cases h; exact hs
  · cases h; exact ha _ l (he s rest hs)
  · exact itemTicks_preserves ha hf (he s rest hs) (bits := [false]) (by simp [itemTicks, h])
  · exact itemTicks_preserves ha hf (he s rest hs) h

/-- The step at a change of input levels. -/
theorem step_levels {s : State} {l : Levels} {rest : List Stim} (h : s.env = .levels l :: rest) :
    step s = .next ({ s with env := rest }.after l) := by
  rcases step_cases s with ⟨h', -⟩ | ⟨_, _, h', e⟩ | ⟨_, h', -⟩ | ⟨_, _, _, h', -⟩ <;> simp_all

/-- What holds of every instance across the edge in a change of levels, and does not read the inputs, the signals and the pins after
it, holds across the step. -/
theorem step_eachTo {s t : State} {l : Levels} {rest : List Stim} {R : Core → Core → Prop} (he : s.env = .levels l :: rest)
    (hs : step s = .next t) (h : ∀ c, R c (s.clockedOne l.tck c))
    (hr : ∀ c d j p, R c d → R c ((d.drive j p).settledIn s.build l.tck)) : s.EachTo t R := by
  rw [step_levels he] at hs
  cases hs
  have e : ∀ c, ({ s with env := rest } : State).clockedOne l.tck c = s.clockedOne l.tck c := fun c => by
    simp only [State.clockedOne, show (({ s with env := rest } : State).focus c).risen = (s.focus c).risen from
      risen_congr rfl rfl rfl]
  exact after_eachTo (s := { s with env := rest }) l (fun c => by rw [e]; exact h c) hr

/-- After the step at a change of levels the input levels are the new ones. -/
theorem step_takesLevels {s t : State} {l : Levels} {rest : List Stim} (he : s.env = .levels l :: rest)
    (hs : step s = .next t) : TakesLevels s t l := by
  rw [step_levels he] at hs
  cases hs
  exact after_takesLevels { s with env := rest } l

/-- The step at a rising edge. -/
theorem step_rise {s : State} {l : Levels} {rest : List Stim} (h : BeforeRise s l rest) :
    step s = .next { s with
      env := rest, tck := true, tdi := l.tdi, miso := l.miso
      core := (s.risen.drive l.jt l.pr).settledIn s.build true
      peers := (drivePeers (s.peers.map fun c => (s.focus c).risen) l.peers).map (Core.settledIn s.build true)
      hostLog := s.core.tdoQ :: s.hostLog, instant := s.instant + 1 } := by
  obtain ⟨he, h1, h2⟩ := h
  have e : ({ s with env := rest } : State).risen = s.risen := risen_congr rfl rfl rfl
  have e' : ∀ c, (({ s with env := rest } : State).focus c).risen = (s.focus c).risen := fun _ => risen_congr rfl rfl rfl
  rw [step_levels he, after_rise (by exact h1) h2, e]
  simp only [e']

/-- The step at a falling edge. -/
theorem step_fall {s : State} {l : Levels} {rest : List Stim} (h : BeforeFall s l rest) :
    step s = .next { s with
      env := rest, tck := false, tdi := l.tdi, miso := l.miso
      core := ({ s.core with tdoQ := s.miso }.drive l.jt l.pr).settledIn s.build false
      peers := (drivePeers (s.peers.map fun c => { c with tdoQ := s.miso }) l.peers).map (Core.settledIn s.build false)
      spiLog := s.core.spiSample :: s.spiLog, instant := s.instant + 1 } := by
  obtain ⟨he, h1, h2⟩ := h
  rw [step_levels he, after_fall (by exact h1) h2]

/-- The step at a change of levels without an edge. -/
theorem step_still {s : State} {l : Levels} {rest : List Stim} (h : BeforeChange s l rest) :
    step s = .next { s with
      env := rest, tdi := l.tdi, miso := l.miso
      core := (s.core.drive l.jt l.pr).settledIn s.build s.tck
      peers := (drivePeers s.peers l.peers).map (Core.settledIn s.build s.tck)
      instant := s.instant + 1 } := by
  obtain ⟨he, h1⟩ := h
  rw [step_levels he, after_still (by exact h1)]

end Sys2Proof.Machine
end

