-- ==== Sys2Proof/Laws/Exec.lean ====
section
/-! SUPPORT. The two dispatchers agree: what an edge executes is `exec` of the operation of the table. -/

namespace Sys2Proof.Machine

theorem exec_aOp (o : AOp) (s : State) : exec o.instr s = runA o s := by cases o <;> rfl

theorem exec_detOp (o : DetOp) (s : State) : exec o.instr s = runDet o s := by cases o <;> rfl

/-- The Domain-A dispatch word of a state, read by the decoder. -/
theorem decode_dWord (s : State) :
    decode s.build (.edgeA s.dWord) = .ok (AOp.select s.rstA s.core.fsm s.trig s.last s.zero).instr := by
  simp [decode, decodeA_dWord, Except.map]

/-- The detector's dispatch word of a state, read by the decoder. -/
theorem decode_tWord (s : State) :
    decode s.build (.edgeDet s.tWord) =
      .ok (DetOp.select s.core.pr.rstn s.core.det (idleEvent s.build s.core)).instr := by
  simp [decode, decodeDet_tWord, Except.map]

end Sys2Proof.Machine
end

