-- ==== Sys2Proof/Laws/PerInstr.lean ====
section
/-! SUPPORT. The per-instruction family: every operation of a build either has a code that a decoder reads or executes
unconditionally, and never both (rules R60, R66, R67). -/

namespace Sys2Proof.Laws.WordOrSchedule

open Sys2Proof

/-- In a build that has the operation, it has no code exactly when it is scheduled unconditionally. -/
def Statement (i : Instr) : Prop :=
  ∀ (b : Build) (free : BitVec 6), i.wf b = true →
    (encode b free i = none ↔ i ∈ alwaysAtRise ++ alwaysAtFall ++ atEveryInstant b)

/-- An operation with a code is not scheduled unconditionally. -/
theorem of_code {i : Instr} (hc : ∀ b free, encode b free i ≠ none)
    (hs : i ∉ alwaysAtRise ++ alwaysAtFall ++ ([.detPass, .detOut, .clkInv, .oeSel, .misoIn, .auxHigh] : List Instr)) :
    Statement i := by
  intro b free _
  refine ⟨fun h => absurd h (hc b free), fun h => absurd ?_ hs⟩
  revert h
  cases hm : b.detMode <;> cases ha : b.hasAux <;> simp [alwaysAtRise, alwaysAtFall, atEveryInstant, hm, ha] <;> tauto

theorem aReset : Statement .aReset := of_code (by simp [encode]) (by decide)
theorem idleNop : Statement .idleNop := of_code (by simp [encode]) (by decide)
theorem idleTrig : Statement .idleTrig := of_code (by simp [encode]) (by decide)
theorem idleTrig1 : Statement .idleTrig1 := of_code (by simp [encode]) (by decide)
theorem headShift : Statement .headShift := of_code (by simp [encode]) (by decide)
theorem headLast : Statement .headLast := of_code (by simp [encode]) (by decide)
theorem headLast0 : Statement .headLast0 := of_code (by simp [encode]) (by decide)
theorem xferStep : Statement .xferStep := of_code (by simp [encode]) (by decide)
theorem xferLast : Statement .xferLast := of_code (by simp [encode]) (by decide)
theorem detClear : Statement .detClear := of_code (by simp [encode]) (by decide)
theorem detWait : Statement .detWait := of_code (by simp [encode]) (by decide)
theorem detLatch : Statement .detLatch := of_code (by simp [encode]) (by decide)
theorem detHold : Statement .detHold := of_code (by simp [encode]) (by decide)
theorem detPass : Statement .detPass := by
  intro b free h
  simp_all [Instr.wf, encode, atEveryInstant]
theorem detOut : Statement .detOut := by
  intro b free h
  simp_all [Instr.wf, encode, atEveryInstant]
theorem mosiReg : Statement .mosiReg := by intro b free _; simp [encode, alwaysAtRise]
theorem csnReg : Statement .csnReg := by intro b free _; simp [encode, alwaysAtRise]
theorem tdoReg : Statement .tdoReg := by intro b free _; simp [encode, alwaysAtFall]
theorem clkInv : Statement .clkInv := by intro b free _; simp [encode, atEveryInstant]
theorem oeSel : Statement .oeSel := by intro b free _; simp [encode, atEveryInstant]
theorem misoIn : Statement .misoIn := by intro b free _; simp [encode, atEveryInstant]
theorem auxHigh : Statement .auxHigh := by
  intro b free h
  simp_all [Instr.wf, encode, atEveryInstant]
theorem nop : Statement .nop := of_code (by simp [encode]) (by decide)
theorem xfer (h : Nat) (body : List Bool) : Statement (.xfer h body) :=
  of_code (by simp [encode]) (by simp [alwaysAtRise, alwaysAtFall])

end Sys2Proof.Laws.WordOrSchedule
end

