-- ==== Sys2Proof/Tests/Slice0.lean ====
section
/-! SUPPORT. Tests on single edges and small states, and a witness for the hypotheses of every statement. Expected results are those of
spec/95_test_vectors.md (named V<n>, X<n> and P<n>) and of the tables of 30_encoding.md. -/

namespace Sys2Proof.Tests

open Sys2Proof Sys2Proof.Machine

/-! ## Decoding: words written out from the tables of rules R66 and R67 and the format of rules R60 and R61 -/

theorem test_decode_aReset : decode {} (.edgeA 0b100000#6) = .ok .aReset := by decide
theorem test_decode_aReset_over_trigger : decode {} (.edgeA 0b100100#6) = .ok .aReset := by decide
theorem test_decode_idleNop : decode {} (.edgeA 0b000010#6) = .ok .idleNop := by decide
theorem test_decode_idleTrig : decode {} (.edgeA 0b000100#6) = .ok .idleTrig := by decide
theorem test_decode_idleTrig1 : decode {} (.edgeA 0b000110#6) = .ok .idleTrig1 := by decide
theorem test_decode_headShift : decode {} (.edgeA 0b001100#6) = .ok .headShift := by decide
theorem test_decode_headLast : decode {} (.edgeA 0b001110#6) = .ok .headLast := by decide
theorem test_decode_headLast0 : decode {} (.edgeA 0b001011#6) = .ok .headLast0 := by decide
theorem test_decode_xferStep : decode {} (.edgeA 0b010100#6) = .ok .xferStep := by decide
theorem test_decode_xferLast : decode {} (.edgeA 0b010010#6) = .ok .xferLast := by decide
theorem test_decode_no_row : decode {} (.edgeA 0b011000#6) = .error .noRow := by decide
theorem test_decode_detClear : decode {} (.edgeDet 0b011#3) = .ok .detClear := by decide
theorem test_decode_detWait : decode {} (.edgeDet 0b100#3) = .ok .detWait := by decide
theorem test_decode_detLatch : decode {} (.edgeDet 0b101#3) = .ok .detLatch := by decide
theorem test_decode_detHold : decode {} (.edgeDet 0b110#3) = .ok .detHold := by decide
theorem test_decode_nop : decode {} (.stream [false]) = .ok .nop := by decide
/-- Program P7's frame, `XFER 2 : 1 0` with `W = 2`. -/
theorem test_decode_xfer : decode { w := 2 } (.stream [true, false, true, false]) = .ok (.xfer 2 [true, false]) := by decide
/-- Program P6's stream, with `W = 1`. -/
theorem test_decode_stream : decodeStream 1 [false, true, true, false, true, false, false] =
    ([.nop, .xfer 1 [true], .nop, .xfer 1 [false], .nop], []) := by decide
/-- Rule R61's worked example, `W = 4` and the header `1,0,1,1`, with a body of eleven alternating bits. -/
theorem test_decode_xfer_R61 :
    decode { w := 4 } (.stream ([true, false, true, true] ++
      [true, false, true, false, true, false, true, false, true, false, true])) =
    .ok (.xfer 11 [true, false, true, false, true, false, true, false, true, false, true]) := by decide
theorem test_decode_cut_header : decode { w := 4 } (.stream [true, false]) = .error .cutHeader := by decide
theorem test_decode_cut_body : decode { w := 2 } (.stream [true, true, false]) = .error .cutBody := by decide
theorem test_scheduled_rise : alwaysAtRise = [.mosiReg, .csnReg] := by decide
theorem test_scheduled_fall : alwaysAtFall = [.tdoReg] := by decide
theorem test_scheduled_passthrough : atEveryInstant {} = [.detPass, .clkInv, .oeSel, .misoIn, .auxHigh] := by decide
theorem test_scheduled_latched :
    atEveryInstant { detMode := .latched, hasAux := false } = [.detOut, .clkInv, .oeSel, .misoIn] := by decide

/-! ## WellFormed: one ill-formed term for each check -/

theorem test_wf_idleTrig : Instr.wf { w := 1 } .idleTrig = false := by decide
theorem test_wf_idleTrig1 : Instr.wf {} .idleTrig1 = false := by decide
theorem test_wf_detClear : Instr.wf {} .detClear = false := by decide
theorem test_wf_detWait : Instr.wf {} .detWait = false := by decide
theorem test_wf_detLatch : Instr.wf {} .detLatch = false := by decide
theorem test_wf_detHold : Instr.wf {} .detHold = false := by decide
theorem test_wf_detPass : Instr.wf { detMode := .latched } .detPass = false := by decide
theorem test_wf_detOut : Instr.wf {} .detOut = false := by decide
theorem test_wf_auxHigh : Instr.wf { hasAux := false } .auxHigh = false := by decide
theorem test_wf_xfer_too_small : Instr.wf { w := 2 } (.xfer 1 [true]) = false := by decide
theorem test_wf_xfer_too_large : Instr.wf { w := 2 } (.xfer 4 [true, true, true, true]) = false := by decide
theorem test_wf_xfer_body_length : Instr.wf { w := 2 } (.xfer 2 [true]) = false := by decide
theorem test_wf_xfer : Instr.wf { w := 2 } (.xfer 2 [true, false]) = true := by decide
theorem test_wf_build : Build.wf { w := 0 } = false := by decide

/-! ## Small states -/

/-- Before a rising edge, PASSTHROUGH and selected, with the given registers, flags and `tdi`. -/
def edge (w : Nat) (f : Fsm) (head bits : Nat) (capture shift tdi : Bool) : State :=
  State.beforeRise { State.powerUp { w := w } bits false false with
    tdi := tdi
    core := { Core.powerUp { w := w } bits false false with
      fsm := f, head := head, jt := { sel := true, shift := shift, capture := capture } } }

/-- Before a rising edge of a LATCHED build with `W = 2`. -/
def detEdge (det : Det) (selected rstn rti1 : Bool) : State :=
  State.beforeRise { State.powerUp { w := 2, detMode := .latched } 0 false false with
    core := { Core.powerUp { w := 2, detMode := .latched } 0 false false with
      det := det, selected := selected, pr := { rstn := rstn, rti1 := rti1, ce := true } } }

/-- Before a falling edge with `miso` high, in TRANSFER. -/
def fallEdge : State :=
  { edge 4 .transfer 3 5 false true true with tck := true, miso := true, env := [.levels { tck := false }] }

/-- Before a change of levels without an edge. -/
def stillEdge : State := { edge 4 .transfer 3 5 false true true with env := [.levels { tck := false, miso := true }] }

/-- The new levels at the rising edge of `edge`. -/
def riseOf (s : State) : Levels := { tck := true, tdi := s.tdi, miso := s.miso, jt := s.core.jt, pr := s.core.pr }

/-- In IDLE with `tck` low, selected, nothing to come. -/
def idleState (w : Nat) : State :=
  { State.powerUp { w := w } 0 false false with
    core := { Core.powerUp { w := w } 0 false false with jt := { sel := true, shift := true } } }

/-- The state machine's registers in an outcome. -/
def fsmOf (o : Host.Outcome State Fault Refusal) : Option (Fsm × Nat × Nat) :=
  match o with
  | .next t => some (t.core.fsm, t.core.head, t.core.bits)
  | .fault _ => none
  | .refused _ => none

/-- A part of the instance in an outcome. -/
def coreOf {α : Type} (f : Core → α) (o : Host.Outcome State Fault Refusal) : Option α :=
  match o with
  | .next t => some (f t.core)
  | .fault _ => none
  | .refused _ => none

/-! ## One edge each: the vectors of 95_test_vectors.md -/

theorem test_aReset_V71 : fsmOf (step (edge 4 .transfer 3 7 true false false)) = some (.idle, 3, 7) := by decide
theorem test_aReset_V73 : fsmOf (step (edge 4 .idle 3 0 true true true)) = some (.idle, 3, 0) := by decide
theorem test_idleNop_V52 : fsmOf (step (edge 4 .idle 3 7 false false false)) = some (.idle, 3, 7) := by decide
theorem test_idleTrig_V54 : fsmOf (step (edge 4 .idle 3 15 false true true)) = some (.header, 3, 15) := by decide
theorem test_idleTrig_V55 : fsmOf (step (edge 4 .idle 0 9 false true true)) = some (.header, 3, 3) := by decide
theorem test_idleTrig1_V57 : fsmOf (step (edge 1 .idle 0 1 false true true)) = some (.transfer, 0, 1) := by decide
theorem test_headShift_V59 : fsmOf (step (edge 4 .header 2 2 false false true)) = some (.header, 1, 5) := by decide
theorem test_headShift_V60 : fsmOf (step (edge 4 .header 3 15 false true false)) = some (.header, 2, 14) := by decide
theorem test_headLast_V61 : fsmOf (step (edge 4 .header 1 5 false true true)) = some (.transfer, 3, 11) := by decide
theorem test_headLast_V64 : fsmOf (step (edge 4 .header 0 0 false true true)) = some (.transfer, 3, 1) := by decide
theorem test_headLast0_V66 : fsmOf (step (edge 3 .header 1 4 false true false)) = some (.idle, 2, 0) := by decide
theorem test_xferStep_V68 : fsmOf (step (edge 4 .transfer 3 2 false false false)) = some (.transfer, 3, 1) := by decide
theorem test_xferLast_V69 : fsmOf (step (edge 4 .transfer 3 1 false true true)) = some (.idle, 3, 0) := by decide
theorem test_xferLast_V70 : fsmOf (step (edge 4 .transfer 3 0 false true false)) = some (.idle, 3, 0) := by decide

theorem test_detClear_V10 : coreOf (fun c => (c.det, c.selected)) (step (detEdge .held true false true)) = some (.wait, false) := by
  decide
theorem test_detWait_V15 : coreOf (fun c => (c.det, c.selected)) (step (detEdge .wait true true false)) = some (.wait, false) := by
  decide
theorem test_detLatch_V12 : coreOf (fun c => (c.det, c.selected)) (step (detEdge .wait false true true)) = some (.held, true) := by
  decide
theorem test_detHold_V13 : coreOf (fun c => (c.det, c.selected)) (step (detEdge .held true true false)) = some (.held, true) := by
  decide
theorem test_detHold_V16 : coreOf (fun c => (c.det, c.selected)) (step (detEdge .held false true true)) = some (.held, false) := by
  decide
/-- V18: the settled outputs of a selected LATCHED detector that captures. -/
theorem test_detOut_V18 : (detEdge .held true true false).core.sig = { sel := true, capture := true, shift := false } := by decide
/-- V6. -/
theorem test_detPass_V6 : (edge 4 .idle 3 0 true true false).core.sig = { sel := true, capture := true, shift := true } := by decide

/-- Rules R130, R131: both registers at the rising edge, from the values before it. -/
theorem test_mosiReg_csnReg : coreOf (fun c => (c.mosiQ, c.csnQ)) (step (edge 4 .transfer 3 5 false true true)) = some (true, false) := by
  decide
/-- Rule R131, example: HEADER still shows chip select high at the edge that enters TRANSFER. -/
theorem test_csnReg_header : coreOf Core.csnQ (step (edge 4 .header 1 5 false true true)) = some true := by decide
/-- Rule R132, example. -/
theorem test_tdoReg : coreOf Core.tdoQ (step fallEdge) = some true := by decide
/-- V31, first row: with `tck` low and selected, the clock pin is high and `miso` and the auxiliary pins are as tabled. -/
theorem test_pins_V31 :
    let c := (edge 4 .idle 3 0 false true false).core
    (c.pinCsn, c.pinClk, c.pinMosi, c.pinMiso, c.pinWpn, c.pinHoldn) = (.hi, .hi, .lo, .z, .hi, .hi) := by decide
/-- Rule R134, example: deselected pins are `Z`. -/
theorem test_oeSel_deselected :
    let c := (detEdge .wait false true false).core
    (c.pinCsn, c.pinClk, c.pinMosi) = (.z, .z, .z) := by decide
/-- Rule R150, example. -/
theorem test_nop : fsmOf (exec .nop (idleState 4)) = some (.idle, 3, 0) := by decide
/-- Program P7: what the SPI device saw, newest first. -/
theorem test_xfer_P7_trace :
    (match exec (.xfer 2 [true, false]) (idleState 2) with
      | .next t => t.spiLog
      | .fault _ => []
      | .refused _ => []) = [⟨.lo, .lo⟩, ⟨.lo, .hi⟩, ⟨.hi, .lo⟩, ⟨.hi, .hi⟩] := by decide
/-- Program P7: the state after the frame. -/
theorem test_xfer_P7 : fsmOf (exec (.xfer 2 [true, false]) (idleState 2)) = some (.idle, 1, 0) := by decide

/-! ## Placing an operation and running it from reset -/

theorem test_place_trig : fsmOf (step (State.reset.withFetchWord 8 0x04)) = some (.header, 31, 1) := by decide
theorem test_place_clear : (State.reset.withFetchWord 3 0).tWord = 0#3 := by decide
theorem test_place_nop : (State.reset.withFetchWord 1 0).env = [.nop] := by decide
theorem test_table_word : decodeTableWord 8 0x12 = some .xferLast := by decide

/-! ## Witnesses: a state and operands that meet the hypotheses of each statement -/

/-- The step answers a next state. -/
def Runs (s : State) : Prop := ∃ t, step s = .next t

theorem runs_of_env {s : State} {l : Levels} {rest : List Stim} (h : s.env = .levels l :: rest) : Runs s := ⟨_, step_levels h⟩

/-- `edge` and `detEdge` stand immediately before a rising edge. -/
theorem before_edge (w f head bits capture shift tdi) :
    BeforeRise (edge w f head bits capture shift tdi) (riseOf (edge w f head bits capture shift tdi)) [] ∧
      Runs (edge w f head bits capture shift tdi) := by
  have h : BeforeRise (edge w f head bits capture shift tdi) (riseOf (edge w f head bits capture shift tdi)) [] := ⟨rfl, rfl, rfl⟩
  exact ⟨h, runs_of_env h.1⟩

theorem before_detEdge (det selected rstn rti1) :
    BeforeRise (detEdge det selected rstn rti1) (riseOf (detEdge det selected rstn rti1)) [] ∧
      Runs (detEdge det selected rstn rti1) := by
  have h : BeforeRise (detEdge det selected rstn rti1) (riseOf (detEdge det selected rstn rti1)) [] := ⟨rfl, rfl, rfl⟩
  exact ⟨h, runs_of_env h.1⟩

theorem before_fall : BeforeFall fallEdge { tck := false } [] ∧ Runs fallEdge :=
  ⟨⟨rfl, rfl, rfl⟩, runs_of_env (l := { tck := false }) (rest := []) rfl⟩

theorem before_change : BeforeChange stillEdge { tck := false, miso := true } [] ∧ Runs stillEdge :=
  ⟨⟨rfl, rfl⟩, runs_of_env (l := { tck := false, miso := true }) (rest := []) rfl⟩

/-- Two instances on one bus, the second selected, and a third that is not. -/
def busState : State := { idleState 2 with peers := [(edge 2 .idle 1 0 false true false).core, (idleState 2).core] }

/-- A change of levels that reaches the first of the other two instances and not the second. -/
def busLevels (tck : Bool) : Levels :=
  { tck := tck, tdi := true, jt := { sel := true }, peers := [({ capture := true }, { rstn := true })] }

/-- The bus before such a change, with the given levels of `tck` now and next. -/
def busEdge (now next : Bool) : State := { busState with tck := now, env := [.levels (busLevels next)] }

theorem runs_busEdge (now next : Bool) : Runs (busEdge now next) := runs_of_env (l := busLevels next) (rest := []) rfl

/-- Rule R178: the flags of each other instance after the change, the first one's new and the second one's kept. -/
theorem test_peer_levels :
    (match step (busEdge false true) with
      | .next t => t.peers.map fun c => (c.jt, c.pr)
      | .fault _ => []
      | .refused _ => []) =
      [({ capture := true }, { rstn := true }), ({ sel := true, shift := true }, {})] := by decide

theorem settled_edge : (edge 4 .idle 3 0 false true true).Settled := by
  refine ⟨?_, by simp [edge, State.beforeRise, State.settled, State.powerUp, overAll, overPeers, settleOne, detOutputs, auxOutputs,
    execDetPass, execClkInv, execOeSel, execMisoIn, execAuxHigh, State.putSignals, State.putClk, State.putEnables, State.putMisoOe,
    State.putAux]⟩
  unfold Core.Settled
  decide

theorem settled_deselected : (detEdge .wait false true false).Settled ∧ (detEdge .wait false true false).core.sig.sel = false := by
  refine ⟨⟨?_, ?_⟩, by decide⟩
  · unfold Core.Settled
    decide
  · intro c hc
    exact absurd hc (by rw [show (detEdge .wait false true false).peers = [] from rfl]; simp)

/-! ### The operations -/

theorem witness_DomainAResetOperation :
    (BeforeRise (edge 4 .transfer 3 7 true false false) (riseOf (edge 4 .transfer 3 7 true false false)) [] ∧
      Runs (edge 4 .transfer 3 7 true false false)) ∧ (edge 4 .transfer 3 7 true false false).core.sig.capture = true ∧
    (BeforeRise (edge 4 .idle 3 7 false false false) (riseOf (edge 4 .idle 3 7 false false false)) [] ∧
      Runs (edge 4 .idle 3 7 false false false)) ∧ (edge 4 .idle 3 7 false false false).core.fsm = .idle ∧
    (detEdge .wait false true false).Settled ∧ (detEdge .wait false true false).core.sig.sel = false :=
  ⟨before_edge .., by decide, before_edge .., by decide, settled_deselected⟩

theorem witness_IdleOperations :
    (BeforeRise (edge 4 .idle 3 7 false true true) (riseOf (edge 4 .idle 3 7 false true true)) [] ∧
      Runs (edge 4 .idle 3 7 false true true)) ∧ (edge 4 .idle 3 7 false true true).core.fsm = .idle ∧
    1 ≤ 4 ∧ [false, true, true].length = 4 - 1 := ⟨before_edge .., by decide, by decide, by decide⟩

theorem witness_OneBitHeader :
    (edge 1 .idle 0 1 false true true).build.w = 1 ∧
    (BeforeRise (edge 1 .idle 0 1 false true true) (riseOf (edge 1 .idle 0 1 false true true)) [] ∧
      Runs (edge 1 .idle 0 1 false true true)) ∧ (edge 1 .idle 0 1 false true true).core.fsm = .idle :=
  ⟨by decide, before_edge .., by decide⟩

theorem witness_HeaderOperations :
    let s := edge 4 .header 1 5 false true true
    let z := edge 3 .header 1 4 false true false
    shl1 s.build.w s.core.bits s.tdi ≠ 0 ∧ shl1 z.build.w z.core.bits z.tdi = 0 ∧ z.build.zeroHdr = .idleDirect ∧
    ({ z with build := { z.build with zeroHdr := .oneTick } } : State).build.zeroHdr = .oneTick ∧
    s.core.Counting s.build ∧ s.core.fsm = .header ∧ s.core.head ≤ 1 := by
  refine ⟨by decide, by decide, by decide, by decide, ⟨⟨by decide, by decide⟩, ?_⟩, by decide, by decide⟩
  change 2 ≤ 4 ∧ 1 ≤ 1 ∧ Nat.testBit 5 2 = true
  decide

theorem witness_DetectorOperations :
    (detEdge .wait false true true).build.idleEvt = false ∧ (detEdge .wait false true true).build.detMode = .latched ∧
    (BeforeRise (detEdge .held true false true) (riseOf (detEdge .held true false true)) [] ∧ Runs (detEdge .held true false true)) ∧
    (detEdge .held true false true).core.pr.rstn = false ∧
    (BeforeRise (detEdge .wait false true true) (riseOf (detEdge .wait false true true)) [] ∧ Runs (detEdge .wait false true true)) ∧
    (detEdge .wait false true true).core.pr.rstn = true ∧ (detEdge .wait false true true).core.pr.rti1 = true ∧
    (BeforeRise (detEdge .held true true false) (riseOf (detEdge .held true true false)) [] ∧ Runs (detEdge .held true true false)) ∧
    (detEdge .held true true false).core.det = .held :=
  ⟨by decide, by decide, before_detEdge .., by decide, before_detEdge .., by decide, by decide, before_detEdge .., by decide⟩

theorem witness_DetectorWaitAndIdleEvent :
    (detEdge .wait false true true).build.idleEvt = false ∧
    decode (detEdge .wait false true true).build (.edgeDet (detEdge .wait false true true).tWord) = .ok .detLatch ∧
    ∃ t, exec .detLatch (detEdge .wait false true true) = .next t := ⟨by decide, by decide, _, rfl⟩

theorem witness_PassthroughOutputs :
    (∃ t, exec .detPass State.reset = .next t) ∧ State.reset.core.jt.sel = false ∧
    stillEdge.build.detMode = .passthrough ∧ stillEdge.env = [.levels { tck := false, miso := true }] ∧ Runs stillEdge :=
  ⟨⟨_, rfl⟩, by decide, by decide, rfl, before_change.2⟩

theorem witness_LatchedOutputs :
    (detEdge .held true true false).build.detMode = .latched ∧
    (∃ l, (detEdge .held true true false).env = [.levels l]) ∧ Runs (detEdge .held true true false) :=
  ⟨by decide, ⟨_, rfl⟩, (before_detEdge ..).2⟩

theorem witness_MosiAndChipSelectRegisters :
    (BeforeRise (edge 4 .transfer 3 5 false true true) (riseOf (edge 4 .transfer 3 5 false true true)) [] ∧
      Runs (edge 4 .transfer 3 5 false true true)) ∧
    busState.peers[0]? = some (edge 2 .idle 1 0 false true false).core ∧
    (BeforeRise (busEdge false true) (busLevels true) [] ∧ Runs (busEdge false true)) ∧
    ((busEdge true false).env = [.levels (busLevels false)] ∧ ¬ ((busEdge true false).tck = false ∧ false = true) ∧
      Runs (busEdge true false)) :=
  ⟨before_edge .., rfl, ⟨⟨rfl, rfl, rfl⟩, runs_busEdge ..⟩, rfl, by decide, runs_busEdge ..⟩

theorem witness_ReadBackRegister :
    (BeforeFall fallEdge { tck := false } [] ∧ Runs fallEdge) ∧
    (BeforeFall (busEdge true false) (busLevels false) [] ∧ Runs (busEdge true false)) ∧
    ((busEdge false true).env = [.levels (busLevels true)] ∧ ¬ ((busEdge false true).tck = true ∧ true = false) ∧
      Runs (busEdge false true)) ∧
    (BeforeRise (edge 4 .transfer 3 5 false true true) (riseOf (edge 4 .transfer 3 5 false true true)) [] ∧
      Runs (edge 4 .transfer 3 5 false true true)) :=
  ⟨before_fall, ⟨⟨rfl, rfl, rfl⟩, runs_busEdge ..⟩, ⟨rfl, by decide, runs_busEdge ..⟩, before_edge ..⟩

theorem witness_ClockAndMisoPins :
    stillEdge.env = [.levels { tck := false, miso := true }] ∧ ¬ (stillEdge.tck = false ∧ false = true) ∧ Runs stillEdge ∧
    (busEdge true false).env = [.levels (busLevels false)] ∧ ¬ ((busEdge true false).tck = false ∧ false = true) ∧
    Runs (busEdge true false) :=
  ⟨rfl, by decide, before_change.2, rfl, by decide, runs_busEdge ..⟩

/-- A build without the auxiliary outputs. -/
def bareState : State := { stillEdge with build := { stillEdge.build with hasAux := false } }

theorem witness_AuxiliaryOutputs :
    stillEdge.build.hasAux = true ∧ stillEdge.env = [.levels { tck := false, miso := true }] ∧ Runs stillEdge ∧
    bareState.build.hasAux = false ∧ bareState.env = [.levels { tck := false, miso := true }] ∧ Runs bareState :=
  ⟨by decide, rfl, before_change.2, by decide, rfl, runs_of_env (l := { tck := false, miso := true }) (rest := []) rfl⟩

theorem witness_AccumulatorAndFinish :
    1 ≤ 4 ∧ [true, false, true, true].length = 4 ∧ (11 : Nat) ≠ 0 ∧ ({} : Build).zeroHdr = .idleDirect ∧
    ({ zeroHdr := .oneTick } : Build).zeroHdr = .oneTick := by decide

/-! ### Dispatch, decoding and encoding -/

theorem witness_DomainADispatch :
    (0x25#6 : DWord) &&& AOp.reset.row.mask = AOp.reset.row.pattern ∧ (0x17#6 : DWord).extractLsb' 3 2 ≠ 0b11#2 := by decide

theorem witness_DetectorDispatch :
    (detEdge .wait false true true).build.idleEvt = false ∧ ({} : Build).detMode = .passthrough ∧ ({} : Build).hasAux = true ∧
    ({ detMode := .latched, hasAux := false } : Build).detMode = .latched ∧
    ({ detMode := .latched, hasAux := false } : Build).hasAux = false ∧
    (BeforeRise (detEdge .held true true false) (riseOf (detEdge .held true true false)) [] ∧ Runs (detEdge .held true true false)) ∧
    (BeforeFall fallEdge { tck := false } [] ∧ Runs fallEdge) ∧ Instr.oeSel ∈ atEveryInstant fallEdge.build :=
  ⟨by decide, by decide, by decide, by decide, by decide, before_detEdge .., before_fall, by decide⟩

theorem witness_DecodeOfEncode :
    ({ w := 2 } : Build).wf = true ∧ (Instr.xfer 3 [true, false, true]).wf { w := 2 } = true ∧
    encode { w := 2 } 0#6 (.xfer 3 [true, false, true]) = some (.stream [true, true, true, false, true]) ∧
    Instr.aReset.wf { w := 2 } = true ∧ encode { w := 2 } 0x3F#6 .aReset = some (.edgeA 0x3F#6) := by decide

theorem witness_StreamParsesIntoItsItems :
    ({ w := 1 } : Build).wf = true ∧
    ∀ i ∈ [Instr.nop, .xfer 1 [true]], i = .nop ∨ ∃ h body, i = .xfer h body ∧ frameWf { w := 1 } h body = true := by
  refine ⟨by decide, fun i hi => ?_⟩
  rcases List.mem_cons.1 hi with rfl | hi
  · exact .inl rfl
  · rw [List.mem_singleton.1 hi]
    exact .inr ⟨_, _, rfl, by decide⟩

theorem witness_FramesThatAStreamCanSpell :
    ({ w := 2 } : Build).wf = true ∧
    decodeItem 2 [true, false, true, false, false] = .ok (.xfer 2 [true, false], [false]) := by decide

/-! ### Edges -/

theorem witness_RisingEdgeRunsDecodedOperations :
    (BeforeRise (detEdge .wait false true true) (riseOf (detEdge .wait false true true)) []) ∧
    BeforeRise (busEdge false true) (busLevels true) [] ∧
    busState.peers[0]? = some (edge 2 .idle 1 0 false true false).core ∧ (busLevels true).peers[0]?.isSome = true ∧
    busState.peers[1]? = some (idleState 2).core ∧ (busLevels true).peers[1]? = none :=
  ⟨(before_detEdge ..).1, ⟨rfl, rfl, rfl⟩, rfl, rfl, rfl, rfl⟩

theorem witness_FallingEdgeRunsDomainB :
    BeforeFall fallEdge { tck := false } [] ∧ BeforeFall (busEdge true false) (busLevels false) [] ∧
    (busLevels false).peers[0]?.isSome = true ∧ (busLevels false).peers[1]? = none := ⟨before_fall.1, ⟨rfl, rfl, rfl⟩, rfl, rfl⟩

theorem witness_StillClockKeepsRegisters :
    BeforeChange stillEdge { tck := false, miso := true } [] ∧ BeforeChange (busEdge true true) (busLevels true) [] ∧
    (busLevels true).peers[0]?.isSome = true ∧ (busLevels true).peers[1]? = none ∧ State.reset.env = [] :=
  ⟨before_change.1, ⟨rfl, rfl⟩, rfl, rfl, rfl⟩

theorem witness_StepRunsStreamItem :
    ({ idleState 2 with env := [.nop] } : State).env = [.nop] ∧
    ({ idleState 2 with env := [.xfer 2 [true, false]] } : State).env = [.xfer 2 [true, false]] := ⟨rfl, rfl⟩

theorem witness_RisingEdgeIsTheListing :
    BeforeRise (edge 3 .header 1 4 false true false) (riseOf (edge 3 .header 1 4 false true false)) [] ∧
      Runs (edge 3 .header 1 4 false true false) := before_edge ..

theorem witness_TaggedVariantSimulates :
    (edge 4 .header 2 2 false false true).build.wf = true ∧
    (BeforeRise (edge 4 .header 2 2 false false true) (riseOf (edge 4 .header 2 2 false false true)) [] ∧
      Runs (edge 4 .header 2 2 false false true)) ∧
    Variant.Of (edge 4 .header 2 2 false false true).build (edge 4 .header 2 2 false false true).core (.header 2 2) ∧
    (BeforeFall fallEdge { tck := false } [] ∧ Runs fallEdge) ∧ Variant.Of fallEdge.build fallEdge.core (.transfer 5) :=
  ⟨by decide, before_edge .., ⟨by decide, by decide, by decide⟩, before_fall, by change 5 = 5; rfl⟩

/-! ### Invariants -/

theorem witness_CombinationalAssignmentsHold :
    (edge 4 .idle 3 0 false true true).Settled ∧ Runs (edge 4 .idle 3 0 false true true) ∧
    Instr.auxHigh ∈ atEveryInstant (edge 4 .idle 3 0 false true true).build := ⟨settled_edge, (before_edge ..).2, by decide⟩

theorem witness_CounterInvariants :
    (edge 4 .transfer 3 15 false true true).build.wf = true ∧ (edge 4 .transfer 3 15 false true true).Counting ∧
    Runs (edge 4 .transfer 3 15 false true true) ∧
    (BeforeRise (edge 4 .header 0 15 true true true) (riseOf (edge 4 .header 0 15 true true true)) [] ∧
      Runs (edge 4 .header 0 15 true true true)) ∧
    (edge 4 .header 0 15 true true true).core.InRange (edge 4 .header 0 15 true true true).build ∧
    (edge 4 .header 0 15 true true true).core.sig.capture = true ∧
    (edge 4 .header 2 2 false false true).core.InRange (edge 4 .header 2 2 false false true).build ∧
    decode {} (.edgeA (edge 4 .header 2 2 false false true).dWord) = .ok .headShift ∧
    decode {} (.edgeA (edge 4 .transfer 3 15 false true true).dWord) = .ok .xferStep := by
  refine ⟨by decide, ⟨⟨⟨by decide, by decide⟩, ?_⟩, ?_⟩, (before_edge ..).2, before_edge .., ⟨by decide, by decide⟩, by decide,
    ⟨by decide, by decide⟩, by decide, by decide⟩
  · change 1 ≤ 15 ∧ 3 = 4 - 1
    decide
  · intro c hc
    exact absurd hc (by rw [show (edge 4 .transfer 3 15 false true true).peers = [] from rfl]; simp)

theorem witness_CounterInvariantsAtPowerUp : 15 ≤ 2 ^ ({ w := 4 } : Build).w - 1 := by decide

theorem witness_RegisterRanges :
    (edge 4 .header 0 15 false true true).Everywhere (Core.InRange (edge 4 .header 0 15 false true true).build) ∧
    Runs (edge 4 .header 0 15 false true true) ∧ ({ w := 1 } : Build).wf = true := by
  refine ⟨⟨⟨by decide, by decide⟩, fun c hc => ?_⟩, (before_edge ..).2, by decide⟩
  exact absurd hc (by rw [show (edge 4 .header 0 15 false true true).peers = [] from rfl]; simp)

theorem witness_SelectedImpliesHeld :
    (detEdge .held true true false).Everywhere Core.SelectedIsHeld ∧ Runs (detEdge .held true true false) ∧
    (detEdge .wait true false false).build.detMode = .latched ∧
    (BeforeRise (detEdge .wait true false false) (riseOf (detEdge .wait true false false)) [] ∧
      Runs (detEdge .wait true false false)) ∧ (detEdge .wait true false false).core.pr.rstn = false := by
  refine ⟨⟨fun _ => by decide, fun c hc => ?_⟩, (before_detEdge ..).2, by decide, before_detEdge .., by decide⟩
  exact absurd hc (by rw [show (detEdge .held true true false).peers = [] from rfl]; simp)

theorem witness_BuildIsImmutable : Runs stillEdge ∧ ∃ t, exec .xferStep stillEdge = .next t := ⟨before_change.2, _, rfl⟩

/-! ### Reset and power-up -/

theorem witness_PowerUpState : ({ detMode := .latched } : Build).detMode = .latched := by decide

theorem witness_DomainAReset :
    (BeforeRise (edge 4 .transfer 3 7 true false false) (riseOf (edge 4 .transfer 3 7 true false false)) [] ∧
      Runs (edge 4 .transfer 3 7 true false false)) ∧ (edge 4 .transfer 3 7 true false false).core.sig.capture = true ∧
    (BeforeRise (edge 4 .idle 3 7 false false false) (riseOf (edge 4 .idle 3 7 false false false)) [] ∧
      Runs (edge 4 .idle 3 7 false false false)) ∧
    (stillEdge.env = [.levels { tck := false, miso := true }] ∧ ¬ (stillEdge.tck = false ∧ false = true) ∧ Runs stillEdge) ∧
    (detEdge .wait false true false).Settled ∧ (detEdge .wait false true false).core.sig.sel = false :=
  ⟨before_edge .., by decide, before_edge .., ⟨rfl, by decide, before_change.2⟩, settled_deselected⟩

theorem witness_TapReset :
    (detEdge .held true false true).build.detMode = .latched ∧
    (BeforeRise (detEdge .held true false true) (riseOf (detEdge .held true false true)) [] ∧ Runs (detEdge .held true false true)) ∧
    (detEdge .held true false true).core.pr.rstn = false ∧
    (detEdge .wait false true false).Settled ∧ (detEdge .wait false true false).core.selected = false ∧
    (BeforeRise (detEdge .wait false true false) (riseOf (detEdge .wait false true false)) [] ∧
      Runs (detEdge .wait false true false)) ∧ (detEdge .wait false true false).core.fsm = .idle ∧
    (edge 4 .idle 3 7 false false false).build.detMode = .passthrough :=
  ⟨by decide, before_detEdge .., by decide, settled_deselected.1, by decide, before_detEdge .., by decide, by decide⟩

theorem witness_SelectionTimeline :
    (BeforeRise (detEdge .wait false true false) (riseOf (detEdge .wait false true false)) [] ∧
      Runs (detEdge .wait false true false)) ∧
    ((detEdge .wait false true false).core.det, (detEdge .wait false true false).core.pr.rti1) = (.wait, false) ∧
    (BeforeRise (detEdge .wait false true true) (riseOf (detEdge .wait false true true)) [] ∧ Runs (detEdge .wait false true true)) ∧
    ((detEdge .wait false true true).core.pr.rstn, (detEdge .wait false true true).core.pr.rti1) = (true, true) ∧
    (detEdge .held true true false).core.det = .held ∧ (detEdge .held true true false).core.selected = true ∧
    (∀ l rest, BeforeRise (detEdge .held true true false) l rest → (detEdge .held true true false).core.pr.rstn = true) ∧
    Runs (detEdge .held true true false) :=
  ⟨before_detEdge .., by decide, before_detEdge .., by decide, by decide, by decide, fun _ _ _ => by decide, (before_detEdge ..).2⟩

/-! ### Pins and nets -/

theorem witness_EnablesFollowSelection :
    stillEdge.env = [.levels { tck := false, miso := true }] ∧ ¬ (stillEdge.tck = false ∧ false = true) ∧ Runs stillEdge ∧
    stillEdge.build.detMode = .passthrough ∧ (detEdge .held true true false).build.detMode = .latched ∧
    (detEdge .wait false true false).core.pins.csnOe = false ∧ stillEdge.core.pins.csnOe = true :=
  ⟨rfl, by decide, before_change.2, by decide, by decide, by decide, by decide⟩

theorem witness_NetLevels :
    (∀ c ∈ (idleState 2).core :: (idleState 2).peers, (c.driver .csn).1 = false) ∧
    (busState.core :: busState.peers = [busState.core] ++ (edge 2 .idle 1 0 false true false).core :: [(idleState 2).core] ∧
      ((edge 2 .idle 1 0 false true false).core.driver .csn).1 = true ∧
      ∀ d ∈ [busState.core] ++ [(idleState 2).core], (d.driver .csn).1 = false) ∧
    (let c := (edge 2 .idle 1 0 false true false).core;
      ({ busState with core := c } : State).core :: busState.peers = [] ++ c :: ([] ++ c :: [(idleState 2).core]) ∧
      (c.driver .csn).1 = true) ∧
    (edge 4 .idle 3 0 false true true).Settled ∧ (edge 4 .idle 3 0 false true true).Exclusive := by
  refine ⟨by decide, ⟨rfl, by decide, by decide⟩, ⟨rfl, by decide⟩, settled_edge, ?_⟩
  unfold State.Exclusive
  decide

theorem witness_OutputsOfATick : (idleState 2).tck = false := by decide

theorem witness_ReadBackIsMisoOneTickLate :
    (idleState 2).tck = false ∧ ∃ u, runTicks [{ miso := true }, { tdi := true }] (idleState 2) = .next u :=
  ⟨by decide, runTicks_next ..⟩

/-! ### Frames -/

theorem witness_NopItem :
    (idleState 2).tck = false ∧ (idleState 2).core.fsm = .idle ∧
    ((detEdge .held true true false).build.detMode = .latched → (detEdge .held true true false).core.det = .held) :=
  ⟨by decide, by decide, fun _ => by decide⟩

/-- In IDLE with `tck` low, a LATCHED build whose detector holds the selection. -/
def heldState (w : Nat) : State :=
  { State.powerUp { w := w, detMode := .latched } 0 false false with
    core := { Core.powerUp { w := w, detMode := .latched } 0 false false with det := .held, selected := true } }

theorem witness_XferItem :
    (idleState 1).build.wf = true ∧ frameWf (idleState 1).build 1 [true] = true ∧ (idleState 1).tck = false ∧
    (idleState 1).core.fsm = .idle ∧
    (heldState 2).build.wf = true ∧ frameWf (heldState 2).build 2 [true, false] = true ∧ (heldState 2).tck = false ∧
    (heldState 2).core.fsm = .idle ∧ (heldState 2).build.detMode = .latched ∧ (heldState 2).core.selected = true ∧
    (heldState 2).core.det = .held := by decide

/-- The state immediately before tick `k`, computed. -/
def beforeTick (s : State) (ts : List TickLine) (k : Nat) : Option State :=
  match ts[k]?, runTicks (ts.take k) s with
  | some t, .next u => some (u.after (t.levels false u.miso))
  | _, _ => none

theorem atTick_iff (s : State) (ts : List TickLine) (k : Nat) (v : State) : AtTick s ts k v ↔ beforeTick s ts k = some v := by
  unfold AtTick beforeTick
  constructor
  · rintro ⟨u, t, h1, h2, h3⟩
    rw [applyLevels_eq] at h3
    cases h3
    simp [h1, h2]
  · intro h
    split at h
    · rename_i t u h1 h2
      exact ⟨u, t, h1, h2, by rw [applyLevels_eq]; cases h; rfl⟩
    · cases h

/-- Program P6's second and third ticks: `W = 1`, `XFER 1 : 1`. -/
theorem witness_FrameTiming :
    (idleState 1).build.wf = true ∧ (idleState 1).build.w ≤ [({ tdi := true } : TickLine), { tdi := true }].length ∧
    (∃ v, AtTick (idleState 1) [{ tdi := true }, { tdi := true }] 0 v ∧ v.core.fsm = .idle ∧ (v.core.sig.shift && v.tdi) = true) ∧
    1 = msbValue (([({ tdi := true } : TickLine), { tdi := true }].take (idleState 1).build.w).map TickLine.tdi) ∧
    (∀ k v, k < (idleState 1).build.w + 1 → AtTick (idleState 1) [{ tdi := true }, { tdi := true }] k v →
      v.core.sig.capture = false) := by
  refine ⟨by decide, by decide, ⟨_, (atTick_iff ..).2 rfl, by decide, by decide⟩, by decide, fun k v hk h => ?_⟩
  rw [atTick_iff] at h
  have hk : k = 0 ∨ k = 1 := by
    have : (idleState 1).build.w = 1 := rfl
    omega
  rcases hk with rfl | rfl <;> cases h <;> decide

/-- The ticks of `XFER 2 : 1 0` with `W = 2`: a pause tick inside the header, and a first body tick with `jtag.sel` low and the given
raw flags. -/
def frameTicks (pr : PrimIn) : List TickLine :=
  [{ tdi := true }, { tdi := false, shift := false, pr := { rstn := true } }, { tdi := true, sel := false, shift := false, pr := pr },
    { tdi := false }]

/-- A property of every tick of `frameTicks`, from its four values. -/
theorem frame_cases {P : Nat → Prop} (h0 : P 0) (h1 : P 1) (h2 : P 2) (h3 : P 3) : ∀ k, k < 4 → P k := by
  intro k hk
  have : k = 0 ∨ k = 1 ∨ k = 2 ∨ k = 3 := by omega
  rcases this with rfl | rfl | rfl | rfl <;> assumption

/-- `frameTicks` is a frame from a state whose ticks, computed, are a trigger and no reset. -/
theorem frameTicks_of {s : State} {pr : PrimIn} (hw : s.build.w = 2) (ht : s.tck = false) (hf : s.core.fsm = .idle)
    (hs : ((beforeTick s (frameTicks pr) 0).map fun v => v.core.sig.shift && v.tdi) = some true)
    (hc : ∀ k, k < 4 → (beforeTick s (frameTicks pr) k).map (fun v => v.core.sig.capture) = some false) :
    FrameTicks s (frameTicks pr) 2 := by
  refine ⟨by simp [Build.wf, hw], ht, hf, by simp [hw, frameTicks], by rw [hw]; rfl, ?_, fun k v h => ?_⟩
  · cases h : beforeTick s (frameTicks pr) 0 with
    | none => simp [h] at hs
    | some v => exact ⟨v, (atTick_iff ..).2 h, by simpa [h] using hs⟩
  · have hk : k < 4 := by
      obtain ⟨u, t, h1, -⟩ := h
      exact (List.getElem?_eq_some_iff.1 h1).1
    have := hc k hk
    rw [(atTick_iff ..).1 h] at this
    simpa using this

/-- The selection at the end of a tick, computed. -/
def selAfter (s : State) (ts : List TickLine) (k : Nat) : Bool :=
  match runTicks (ts.take (k + 1)) s with
  | .next x => x.core.sig.sel
  | .fault _ => false
  | .refused _ => false

theorem frame_passthrough : FrameTicks (idleState 2) (frameTicks {}) 2 :=
  frameTicks_of rfl rfl rfl rfl (frame_cases rfl rfl rfl rfl)

theorem frame_latched : FrameTicks (heldState 2) (frameTicks { rstn := true }) 2 :=
  frameTicks_of rfl rfl rfl rfl (frame_cases rfl rfl rfl rfl)

/-- A frame with a pause tick and a deselected tick in it, and one in a LATCHED build with two ticks outside Shift-DR. -/
theorem witness_FrameUnderAnyFlags :
    FrameTicks (idleState 2) (frameTicks {}) 2 ∧
    (∀ k x, k < (frameTicks {}).length → runTicks ((frameTicks {}).take (k + 1)) (idleState 2) = .next x →
      x.core.sig.sel = decide (k ≠ 2)) ∧
    FrameTicks (heldState 2) (frameTicks { rstn := true }) 2 ∧
    (∀ k x, k < (frameTicks { rstn := true }).length →
      runTicks ((frameTicks { rstn := true }).take (k + 1)) (heldState 2) = .next x → x.core.sig.sel = true) := by
  refine ⟨frame_passthrough, ?_, frame_latched, ?_⟩ <;> intro k x hk h
  · have : selAfter (idleState 2) (frameTicks {}) k = decide (k ≠ 2) :=
      frame_cases (P := fun k => selAfter _ _ k = decide (k ≠ 2)) rfl rfl rfl rfl k hk
    rwa [selAfter, h] at this
  · have : selAfter (heldState 2) (frameTicks { rstn := true }) k = true :=
      frame_cases (P := fun k => selAfter _ _ k = true) rfl rfl rfl rfl k hk
    rwa [selAfter, h] at this

/-- The state after ticks, computed. -/
def afterFrame (s : State) (ts : List TickLine) : State :=
  match runTicks ts s with
  | .next t => t
  | .fault _ => s
  | .refused _ => s

theorem runTicks_afterFrame (s : State) (ts : List TickLine) : runTicks ts s = .next (afterFrame s ts) := by
  obtain ⟨t, ht⟩ := runTicks_next ts s
  rw [afterFrame, ht]

/-- Two frames in each build: as items, and as ticks with a pause in them. -/
theorem witness_BackToBackFramesAreIdentical :
    ((idleState 1).build.wf = true ∧ frameWf (idleState 1).build 1 [true] = true ∧ (idleState 1).tck = false ∧
      (idleState 1).core.fsm = .idle ∧
      ∃ t u, exec (.xfer 1 [true]) (idleState 1) = .next t ∧ exec (.xfer 1 [true]) t = .next u) ∧
    ((heldState 2).build.wf = true ∧ frameWf (heldState 2).build 2 [true, false] = true ∧ (heldState 2).tck = false ∧
      (heldState 2).core.fsm = .idle ∧ (heldState 2).core.selected = true ∧ (heldState 2).core.det = .held ∧
      ∃ t u, exec (.xfer 2 [true, false]) (heldState 2) = .next t ∧ exec (.xfer 2 [true, false]) t = .next u) ∧
    (let ts := frameTicks { rstn := true }
      let t := afterFrame (heldState 2) ts
      FrameTicks (heldState 2) ts 2 ∧ FrameTicks t ts 2 ∧
      (∀ k x, k < ts.length → runTicks (ts.take (k + 1)) (heldState 2) = .next x → x.core.sig.sel = true) ∧
      (∀ k x, k < ts.length → runTicks (ts.take (k + 1)) t = .next x → x.core.sig.sel = true) ∧
      runTicks ts (heldState 2) = .next t ∧ ∃ u, runTicks ts t = .next u) := by
  have two : ∀ (h : Nat) (body : List Bool) (s : State), ∃ t u, exec (.xfer h body) s = .next t ∧ exec (.xfer h body) t = .next u :=
    fun h body s => by
      obtain ⟨t, ht⟩ := itemTicks_next (frameBits s.build.w h body) s
      obtain ⟨u, hu⟩ := itemTicks_next (frameBits t.build.w h body) t
      exact ⟨t, u, ht, hu⟩
  refine ⟨⟨by decide, by decide, by decide, by decide, two ..⟩,
    ⟨by decide, by decide, by decide, by decide, by decide, by decide, two ..⟩,
    frame_latched, frameTicks_of rfl rfl rfl rfl (frame_cases rfl rfl rfl rfl), witness_FrameUnderAnyFlags.2.2.2, ?_,
    runTicks_afterFrame .., runTicks_next ..⟩
  intro k x hk h
  have : selAfter (afterFrame (heldState 2) (frameTicks { rstn := true })) (frameTicks { rstn := true }) k = true :=
    frame_cases (P := fun k => selAfter _ _ k = true) rfl rfl rfl rfl k hk
  rwa [selAfter, h] at this

theorem witness_FlagsAreNotReadInsideAFrame :
    let s := edge 4 .transfer 3 5 false true true
    let s' := edge 4 .transfer 3 5 false false true
    s.build = s'.build ∧ s.core.fsm ≠ .idle ∧ s.core.fsm = s'.core.fsm ∧ s.core.head = s'.core.head ∧ s.core.bits = s'.core.bits ∧
    s.tdi = s'.tdi ∧ s.core.sig.capture = false ∧ s'.core.sig.capture = false ∧
    (BeforeRise s (riseOf s) [] ∧ Runs s) ∧ (BeforeRise s' (riseOf s') [] ∧ Runs s') :=
  ⟨by decide, by decide, by decide, by decide, by decide, by decide, by decide, by decide, before_edge .., before_edge ..⟩

theorem witness_DeselectionDisablesThePins :
    stillEdge.build.detMode = .passthrough ∧ stillEdge.env = [.levels { tck := false, miso := true }] ∧
    ({ tck := false, miso := true } : Levels).jt.sel = false ∧ Runs stillEdge ∧ ¬ (stillEdge.tck = false ∧ false = true) ∧
    (BeforeFall (busEdge true false) (busLevels false) [] ∧ Runs (busEdge true false)) ∧
    (detEdge .wait false true false).Settled ∧ (detEdge .wait false true false).core.sig.sel = false :=
  ⟨by decide, rfl, by decide, before_change.2, by decide, ⟨⟨rfl, rfl, rfl⟩, runs_busEdge ..⟩, settled_deselected⟩

theorem witness_StreamItemsAreTheirTicks :
    (idleState 2).misoFeed = [] ∧
    ∃ h body, Instr.xfer 2 [true, false] = .xfer h body ∧
      [true, false, true, false] = frameBits (idleState 2).build.w h body := ⟨rfl, 2, [true, false], rfl, by decide⟩

/-! ### Non-interference -/

theorem witness_ReadBackCarriesNoBlockState :
    let s := stillEdge
    let s' := { stillEdge with core := { stillEdge.core with fsm := .idle, bits := 0 } }
    s.build.w = s'.build.w ∧ s.env = s'.env ∧ s.misoFeed = s'.misoFeed ∧ s.tck = s'.tck ∧ s.miso = s'.miso ∧
    s.core.tdoQ = s'.core.tdoQ ∧ s.hostLog = s'.hostLog ∧
    (∃ t, Host.Core.run Sys2Proof.core 0 s = .next t) ∧ ∃ t', Host.Core.run Sys2Proof.core 0 s' = .next t' :=
  ⟨rfl, rfl, rfl, rfl, rfl, rfl, rfl, ⟨_, rfl⟩, _, rfl⟩

theorem witness_OtherInstancesDoNotInterfere : Runs stillEdge ∧ Runs { stillEdge with peers := busState.peers } :=
  ⟨before_change.2, runs_of_env (l := { tck := false, miso := true }) (rest := []) rfl⟩

theorem witness_ZeroHeaderChoiceIsUnobservable :
    (edge 4 .transfer 3 15 false true true).build.wf = true ∧ (edge 4 .transfer 3 15 false true true).Counting ∧
    Runs (edge 4 .transfer 3 15 false true true) ∧
    Runs { edge 4 .transfer 3 15 false true true with build := { w := 4, zeroHdr := .oneTick } } :=
  ⟨by decide, witness_CounterInvariants.2.1, (before_edge ..).2,
    runs_of_env (l := riseOf (edge 4 .transfer 3 15 false true true)) (rest := []) rfl⟩

end Sys2Proof.Tests
end

section
/-! PROOF. Totality (rule R9): every operation, every step and every run answers a next state. -/

namespace Sys2Proof.Machine

/-- Rule R9 for one operation: an operation of an edge or of an instant is a single write, and a stream item is its ticks. -/
theorem exec_next (i : Instr) (s : State) : ∃ t, exec i s = .next t := by
  cases i with
  | aReset | idleNop | idleTrig | idleTrig1 | headShift | headLast | headLast0 | xferStep | xferLast => exact ⟨_, rfl⟩
  | detClear | detWait | detLatch | detHold | detPass | detOut => exact ⟨_, rfl⟩
  | mosiReg | csnReg | tdoReg | clkInv | oeSel | misoIn | auxHigh => exact ⟨_, rfl⟩
  | nop => exact ⟨_, runTick_eq ..⟩
  | xfer h body => exact itemTicks_next (frameBits s.build.w h body) s

/-- Rule R9 for one step, by what the step does: nothing, a change of input levels, or the ticks of a stream item. -/
theorem step_next (s : State) : ∃ t, step s = .next t := by
  rcases step_cases s with ⟨-, e⟩ | ⟨l, rest, -, e⟩ | ⟨rest, -, e⟩ | ⟨h, body, rest, -, e⟩
  · exact ⟨s, e⟩
  · exact ⟨_, e⟩
  · exact ⟨_, e.trans (runTick_eq ..)⟩
  · rw [e]
    exact itemTicks_next ..

/-- A run after a step that answers a next state goes on from that state. -/
theorem run_succ_of_step {M : Host.Core} {n : Nat} {s t : M.State} (h : M.step s = .next t) :
    M.run (n + 1) s = M.run n t := by
  simp only [Host.Core.run, h]

/-- A machine whose every step answers a next state stops nowhere. -/
theorem safeRun (n : Nat) (s : State) : SafeRun n s := by
  induction n generalizing s with
  | zero => exact ⟨s, rfl⟩
  | succ n ih =>
    obtain ⟨t, ht⟩ := step_next s
    obtain ⟨u, hu⟩ := ih t
    exact ⟨u, (run_succ_of_step (M := Sys2Proof.core) ht).trans hu⟩

/-- Settles O25, from the totality of one operation, of one step, and induction on the number of steps. -/
theorem everythingIsTotal : Obligations.EverythingIsTotal := ⟨exec_next, step_next, safeRun⟩

end Sys2Proof.Machine
end

section
/-! PROOF. The detector (rules R81, R83 to R85): which operation its dispatch word selects, what the selected one leaves after a
rising edge, and what holds of its outputs after every change of levels. -/

namespace Sys2Proof

open Machine

/-! ## Which detector operation is selected (rule R67) -/

theorem DetOp.instr_injective : Function.Injective DetOp.instr := by
  intro o o' h
  cases o <;> cases o' <;> simp_all [DetOp.instr]

/-- A TAP reset selects DET.CLEAR, whatever the detector's state and the event are. -/
theorem DetOp.select_eq_clear {rstn : Bool} {dt : Det} {event : Bool} :
    DetOp.select rstn dt event = .clear ↔ rstn = false := by
  cases rstn with
  | false => simp [DetOp.select]
  | true => cases dt <;> cases event <;> simp [DetOp.select]

/-- DET.LATCH takes the event, and only in WAIT. -/
theorem DetOp.select_eq_latch {rstn : Bool} {dt : Det} {event : Bool} :
    DetOp.select rstn dt event = .latch ↔ rstn = true ∧ dt = .wait ∧ event = true := by
  cases rstn with
  | false => simp [DetOp.select]
  | true => cases dt <;> cases event <;> simp [DetOp.select]

/-- In HELD the event is not read. -/
theorem DetOp.select_eq_hold {rstn : Bool} {dt : Det} {event : Bool} :
    DetOp.select rstn dt event = .hold ↔ rstn = true ∧ dt = .held := by
  cases rstn with
  | false => simp [DetOp.select]
  | true => cases dt <;> cases event <;> simp [DetOp.select]

end Sys2Proof

namespace Sys2Proof.Machine

/-- The detector's dispatch word decodes to the operation that its fields select, and to no other. -/
theorem decode_tWord_iff (s : State) (o : DetOp) :
    decode s.build (.edgeDet s.tWord) = .ok o.instr ↔
      DetOp.select s.core.pr.rstn s.core.det (idleEvent s.build s.core) = o := by
  rw [decode_tWord, Except.ok.injEq, DetOp.instr_injective.eq_iff]

theorem decode_detClear_iff (s : State) : decode s.build (.edgeDet s.tWord) = .ok .detClear ↔ s.core.pr.rstn = false :=
  (decode_tWord_iff s .clear).trans DetOp.select_eq_clear

theorem decode_detLatch_iff (s : State) : decode s.build (.edgeDet s.tWord) = .ok .detLatch ↔
    s.core.pr.rstn = true ∧ s.core.det = .wait ∧ idleEvent s.build s.core = true :=
  (decode_tWord_iff s .latch).trans DetOp.select_eq_latch

theorem decode_detHold_iff (s : State) : decode s.build (.edgeDet s.tWord) = .ok .detHold ↔
    s.core.pr.rstn = true ∧ s.core.det = .held :=
  (decode_tWord_iff s .hold).trans DetOp.select_eq_hold

/-- The idle-entry event of the spec's own build (rule R82). -/
theorem idleEvent_rti1 {b : Build} (h : b.idleEvt = false) (c : Core) : idleEvent b c = c.pr.rti1 := by
  simp [idleEvent, h]

/-! ## After every change of levels -/

/-- A change of levels leaves every bridge settled on the new level of `tck`, whatever it was before. -/
theorem after_settled (s : State) (l : Levels) : (s.after l).Settled := by
  refine ⟨?_, fun c hc => ?_⟩
  · simpa [State.after] using settledIn_settled ..
  · obtain ⟨d, -, rfl⟩ := List.mem_map.1 hc
    simpa using settledIn_settled ..

/-- The same of the step at a change of levels; no step writes the build. -/
theorem step_levels_settled {s t : State} {l : Levels} {rest : List Stim} (he : s.env = .levels l :: rest)
    (hs : step s = .next t) : t.build = s.build ∧ t.Settled := by
  rw [step_levels he] at hs
  cases hs
  exact ⟨after_build .., after_settled ..⟩

/-- A settled PASSTHROUGH bridge drives DET.PASS's equations (rule R81). -/
theorem Core.Settled.sig_passthrough {b : Build} {tck : Bool} {c : Core} (h : c.Settled b tck)
    (hm : b.detMode = .passthrough) :
    c.sig = { sel := c.jt.sel, capture := c.jt.sel && c.jt.capture, shift := c.jt.sel && c.jt.shift } := by
  obtain ⟨hsig, -⟩ := h
  simpa only [Core.detSignals, hm] using hsig

/-- In a settled LATCHED bridge the output enable of `cs_n` is the selection (rules R86, R134). -/
theorem Core.Settled.csnOe_latched {b : Build} {tck : Bool} {c : Core} (h : c.Settled b tck) (hm : b.detMode = .latched) :
    c.pins.csnOe = c.selected := by
  obtain ⟨hsig, -, hcsn, -⟩ := h
  simp [hcsn, hsig, Core.detSignals, hm]

/-! ## At a rising edge -/

/-- What the detector does at a rising edge of a LATCHED build is `exec` of the operation its dispatch word decodes to. -/
theorem edgeDet_of_decode {s : State} {i : Instr} (hm : s.build.detMode = .latched)
    (hd : decode s.build (.edgeDet s.tWord) = .ok i) : edgeDet s = exec i s := by
  rw [decode_tWord, Except.ok.injEq] at hd
  rw [← hd, exec_detOp, edgeDet_latched hm]

/-- After a rising edge the detector's registers are those that its operation leaves. -/
theorem risen_det {s d : State} (h : edgeDet s = .next d) :
    s.risen.det = d.core.det ∧ s.risen.selected = d.core.selected := by
  obtain ⟨-, d', a, hd, -, e⟩ := riseOne_eq s
  rw [h] at hd
  cases hd
  simp [e]

/-- The rising edge of a LATCHED build in one statement: the operation decoded executes on the state before the edge, its two
registers are what the detector then holds, and chip select is enabled by the new selection (rules R83 to R85). -/
theorem step_rise_detector {s t u : State} {l : Levels} {rest : List Stim} {i : Instr} (hm : s.build.detMode = .latched)
    (hb : BeforeRise s l rest) (hs : step s = .next t) (hd : decode s.build (.edgeDet s.tWord) = .ok i)
    (hx : exec i s = .next u) :
    t.core.det = u.core.det ∧ t.core.selected = u.core.selected ∧ t.core.pins.csnOe = u.core.selected := by
  obtain ⟨hbuild, hcore, -⟩ := step_levels_settled hb.1 hs
  have hregs : t.core.det = u.core.det ∧ t.core.selected = u.core.selected := by
    rw [step_rise hb] at hs
    cases hs
    exact risen_det ((edgeDet_of_decode hm hd).trans hx)
  obtain ⟨hdet, hsel⟩ := hregs
  exact ⟨hdet, hsel, (hcore.csnOe_latched (hbuild ▸ hm)).trans hsel⟩

/-! ## The statements -/

/-- Settles O6: effects by the operations' definitions, selection by the fields of the dispatch word, and the edge by executing
the operation that each of the three conditions selects. -/
theorem detectorOperations : Obligations.DetectorOperations := by
  refine ⟨fun _ => rfl, fun _ => rfl, fun _ => rfl, decode_detClear_iff, fun s hi => ?_, decode_detHold_iff,
    fun s t l rest hm hi hb hs => ⟨fun hr => ?clear, fun hr hw he => ?latch, fun hr hh => ?hold⟩⟩
  · rw [decode_detLatch_iff, idleEvent_rti1 hi]
  case clear => exact step_rise_detector hm hb hs ((decode_detClear_iff s).2 hr) rfl
  case latch =>
    have hd := (decode_detLatch_iff s).2 ⟨hr, hw, (idleEvent_rti1 hi _).trans he⟩
    simpa [he] using step_rise_detector hm hb hs hd rfl
  case hold => exact step_rise_detector hm hb hs ((decode_detHold_iff s).2 ⟨hr, hh⟩) rfl

/-- Settles O8: after a change of levels every bridge has settled, and the one in focus has the new inputs. -/
theorem passthroughOutputs : Obligations.PassthroughOutputs := by
  refine ⟨fun _ => rfl, fun s t hx hsel => ?_, fun s t l rest hm he hs => ?_⟩
  · cases hx
    simp [hsel]
  · obtain ⟨hbuild, hcore, hpeers⟩ := step_levels_settled he hs
    obtain ⟨-, -, -, hjt, -⟩ := step_takesLevels he hs
    have hpass : t.build.detMode = .passthrough := hbuild ▸ hm
    exact ⟨hjt ▸ hcore.sig_passthrough hpass, hcore.sig_passthrough hpass,
      fun c hc => (hpeers c hc).sig_passthrough hpass⟩

end Sys2Proof.Machine
end

section
/-! PROOF. The bridge in IDLE (rules R102, R103): which Domain-A operation its dispatch word selects, what MOSI.REG, CSN.REG and
CLK.INV leave after a rising edge, and what a whole header shifted into the accumulator spells. -/

namespace Sys2Proof

open Machine

/-! ## Which Domain-A operation is selected (rule R66) -/

theorem AOp.instr_injective : Function.Injective AOp.instr := by
  intro o o' h
  cases o <;> cases o' <;> simp_all [AOp.instr]

/-- IDLE without a trigger selects IDLE.NOP, whatever the header width is. -/
theorem AOp.select_eq_nop {rstA : Bool} {st : Fsm} {trig last zero : Bool} :
    AOp.select rstA st trig last zero = .nop ↔ rstA = false ∧ st = .idle ∧ trig = false := by
  cases rstA with
  | true => simp [AOp.select]
  | false =>
    cases st with
    | idle => cases trig <;> cases last <;> simp [AOp.select]
    | header => cases last <;> cases zero <;> simp [AOp.select]
    | transfer => cases last <;> simp [AOp.select]

/-- IDLE.TRIG takes a trigger that is not also the last header bit. -/
theorem AOp.select_eq_trig {rstA : Bool} {st : Fsm} {trig last zero : Bool} :
    AOp.select rstA st trig last zero = .trig ↔ rstA = false ∧ st = .idle ∧ trig = true ∧ last = false := by
  cases rstA with
  | true => simp [AOp.select]
  | false =>
    cases st with
    | idle => cases trig <;> cases last <;> simp [AOp.select]
    | header => cases last <;> cases zero <;> simp [AOp.select]
    | transfer => cases last <;> simp [AOp.select]

end Sys2Proof

namespace Sys2Proof.Machine

/-- The Domain-A dispatch word decodes to the operation that its fields select, and to no other. -/
theorem decode_dWord_iff (s : State) (o : AOp) :
    decode s.build (.edgeA s.dWord) = .ok o.instr ↔ AOp.select s.rstA s.core.fsm s.trig s.last s.zero = o := by
  rw [decode_dWord, Except.ok.injEq, AOp.instr_injective.eq_iff]

/-- In IDLE the trigger is the last header bit exactly when it is the whole header (rule R66). -/
theorem State.last_eq_false_of_idle {s : State} (h : s.core.fsm = .idle) : s.last = false ↔ s.build.w ≠ 1 := by
  simp [State.last, h]

theorem decode_idleNop_iff (s : State) : decode s.build (.edgeA s.dWord) = .ok .idleNop ↔
    s.core.sig.capture = false ∧ s.core.fsm = .idle ∧ (s.core.sig.shift && s.tdi) = false :=
  (decode_dWord_iff s .nop).trans AOp.select_eq_nop

theorem decode_idleTrig_iff (s : State) : decode s.build (.edgeA s.dWord) = .ok .idleTrig ↔
    s.core.sig.capture = false ∧ s.core.fsm = .idle ∧ (s.core.sig.shift && s.tdi) = true ∧ s.build.w ≠ 1 :=
  calc decode s.build (.edgeA s.dWord) = .ok .idleTrig
    _ ↔ s.rstA = false ∧ s.core.fsm = .idle ∧ s.trig = true ∧ s.last = false :=
      (decode_dWord_iff s .trig).trans AOp.select_eq_trig
    _ ↔ _ := and_congr_right fun _ => and_congr_right fun hidle => and_congr_right fun _ =>
      State.last_eq_false_of_idle hidle

/-! ## The pins at a rising edge -/

/-- MOSI.REG and CSN.REG take the values before the edge, whatever the dispatched operations are (rules R130, R131). -/
theorem risen_pinRegisters (s : State) : s.risen.mosiQ = s.tdi ∧ s.risen.csnQ = decide (s.core.fsm ≠ .transfer) := by
  obtain ⟨-, d, a, -, -, e⟩ := riseOne_eq s
  simp [e]

/-- After the step at a rising edge the two pin registers have taken their updates and the SPI clock is low (rule R133). -/
theorem step_rise_pins {s t : State} {l : Levels} {rest : List Stim} (hb : BeforeRise s l rest) (hs : step s = .next t) :
    t.core.mosiQ = s.tdi ∧ t.core.csnQ = decide (s.core.fsm ≠ .transfer) ∧ t.core.pins.clkO = false := by
  obtain ⟨hmosi, hcsn⟩ := risen_pinRegisters s
  rw [step_rise hb] at hs
  cases hs
  exact ⟨hmosi, hcsn, rfl⟩

/-! ## Shifting in a header (rules R103, R109) -/

/-- Bits shifted into an accumulator that fits its `W` bits: the old value moves up by one place for each, and what passes bit
`W-1` is gone. -/
theorem foldl_shl1 {w v : Nat} (hv : v < 2 ^ w) (bits : List Bool) :
    bits.foldl (shl1 w) v = (v * 2 ^ bits.length + msbValue bits) % 2 ^ w := by
  induction bits generalizing v with
  | nil => simpa [msbValue] using (Nat.mod_eq_of_lt hv).symm
  | cons b bs ih =>
    have hshift : shl1 w v b ≡ 2 * v + b.toNat [MOD 2 ^ w] := Nat.mod_modEq ..
    calc (b :: bs).foldl (shl1 w) v
      _ = (shl1 w v b * 2 ^ bs.length + msbValue bs) % 2 ^ w := ih (shl1_lt w v b)
      _ = ((2 * v + b.toNat) * 2 ^ bs.length + msbValue bs) % 2 ^ w := (hshift.mul_right _).add_right _
      _ = (v * 2 ^ (b :: bs).length + msbValue (b :: bs)) % 2 ^ w := by
        rw [msbValue_cons, List.length_cons, pow_succ]
        congr 1
        ring

/-- A whole header shifted into any accumulator spells its own `W` bits: every bit of the old value has passed bit `W-1`. -/
theorem foldl_shl1_header {w : Nat} (v : Nat) {b : Bool} {bits : List Bool} (h : (b :: bits).length = w) :
    (b :: bits).foldl (shl1 w) v = msbValue (b :: bits) := by
  have hlt : msbValue (b :: bits) < 2 ^ w := h ▸ msbValue_lt _
  rw [List.foldl_cons, ← shl1_mod, ← List.foldl_cons, foldl_shl1 (Nat.mod_lt v (Nat.two_pow_pos w)), h,
    Nat.mul_add_mod_self_right, Nat.mod_eq_of_lt hlt]

/-! ## The statement -/

/-- Settles O2: effects by the operations' definitions, selection by the fields of the dispatch word, the pins by the step at a
rising edge from a state other than TRANSFER, and both headers by the number that their common bits spell. -/
theorem idleOperations : Obligations.IdleOperations := by
  refine ⟨fun _ => rfl, fun _ => rfl, decode_idleNop_iff, decode_idleTrig_iff, fun s t l rest hb hidle hs => ?pins,
    fun w v v' bits hw hlen => ?header⟩
  case pins =>
    obtain ⟨hmosi, hcsn, hclk⟩ := step_rise_pins hb hs
    exact ⟨hmosi, by simp [hcsn, hidle], hclk⟩
  case header =>
    have hlength : (true :: bits).length = w := by rw [List.length_cons, hlen]; omega
    exact (foldl_shl1_header v hlength).trans (foldl_shl1_header v' hlength).symm

end Sys2Proof.Machine
end

section
/-! PROOF. The datapath and its pins (rules R132 to R135): which registers an edge of `tck` reaches, what a settled instance drives
on its pins, and the level that an enable puts on a pin. -/

namespace Sys2Proof.Machine

/-! ## Statements about every instance -/

theorem State.Everywhere.mono {s : State} {P Q : Core → Prop} (h : s.Everywhere P) (hPQ : ∀ c, P c → Q c) :
    s.Everywhere Q :=
  ⟨hPQ _ h.1, fun c hc => hPQ c (h.2 c hc)⟩

theorem State.EachTo.mono {s t : State} {R S : Core → Core → Prop} (h : s.EachTo t R) (hRS : ∀ c d, R c d → S c d) :
    s.EachTo t S := by
  obtain ⟨hcore, hlen, hpeers⟩ := h
  refine ⟨hRS _ _ hcore, hlen, fun i c hc => ?_⟩
  obtain ⟨d, hd, hR⟩ := hpeers i c hc
  exact ⟨d, hd, hRS _ _ hR⟩

/-! ## Which registers an edge reaches (rule R46) -/

/-- The five registers that belong to a rising edge of `tck` (rules R11 to R15). -/
def Core.SameDomainA (c d : Core) : Prop :=
  d.fsm = c.fsm ∧ d.head = c.head ∧ d.bits = c.bits ∧ d.csnQ = c.csnQ ∧ d.mosiQ = c.mosiQ

/-- Domain A is reached by a rising edge only: a falling edge writes `tdo_q`, and without an edge nothing is written. -/
theorem clockedOne_sameDomainA {s : State} {tck : Bool} (h : ¬ (s.tck = false ∧ tck = true)) (c : Core) :
    c.SameDomainA (s.clockedOne tck c) := by
  rw [State.clockedOne, if_neg h]
  split <;> exact ⟨rfl, rfl, rfl, rfl, rfl⟩

/-- At a falling edge TDO.REG takes `miso`. -/
theorem clockedOne_tdoQ_of_fall {s : State} {tck : Bool} (hs : s.tck = true) (ht : tck = false) (c : Core) :
    (s.clockedOne tck c).tdoQ = s.miso := by
  simp [State.clockedOne, hs, ht]

/-- Domain B is reached by a falling edge only: no operation of a rising edge writes `tdo_q`. -/
theorem clockedOne_tdoQ_of_not_fall {s : State} {tck : Bool} (h : ¬ (s.tck = true ∧ tck = false)) (c : Core) :
    (s.clockedOne tck c).tdoQ = c.tdoQ := by
  rw [State.clockedOne, if_neg h]
  split
  · obtain ⟨-, d, a, -, -, e⟩ := riseOne_eq (s.focus c)
    simp [e]
  · rfl

/-- A step at a change of levels without a rising edge writes no Domain-A register of any instance. -/
theorem step_keeps_domainA {s t : State} {l : Levels} {rest : List Stim} (he : s.env = .levels l :: rest)
    (hr : ¬ (s.tck = false ∧ l.tck = true)) (hs : step s = .next t) : s.EachTo t Core.SameDomainA :=
  step_eachTo he hs (clockedOne_sameDomainA hr) fun _ _ _ _ h => h

/-- The step at a falling edge puts `miso` into `tdo_q` of every instance. -/
theorem step_fall_tdoQ {s t : State} {l : Levels} {rest : List Stim} (hb : BeforeFall s l rest) (hs : step s = .next t) :
    s.EachTo t fun _ d => d.tdoQ = s.miso := by
  obtain ⟨he, hhigh, hlow⟩ := hb
  exact step_eachTo he hs (clockedOne_tdoQ_of_fall hhigh hlow) fun _ _ _ _ h => h

/-- A step at a change of levels without a falling edge writes `tdo_q` of no instance. -/
theorem step_keeps_tdoQ {s t : State} {l : Levels} {rest : List Stim} (he : s.env = .levels l :: rest)
    (hf : ¬ (s.tck = true ∧ l.tck = false)) (hs : step s = .next t) : s.EachTo t fun c d => d.tdoQ = c.tdoQ :=
  step_eachTo he hs (clockedOne_tdoQ_of_not_fall hf) fun _ _ _ _ h => h

/-! ## What the host samples (rule R138) -/

theorem step_fall_hostLog {s t : State} {l : Levels} {rest : List Stim} (hb : BeforeFall s l rest) (hs : step s = .next t) :
    t.hostLog = s.hostLog := by
  rw [step_fall hb] at hs
  cases hs
  rfl

theorem step_rise_hostLog {s t : State} {l : Levels} {rest : List Stim} (hb : BeforeRise s l rest) (hs : step s = .next t) :
    t.hostLog = s.core.tdoQ :: s.hostLog := by
  rw [step_rise hb] at hs
  cases hs
  rfl

/-! ## The level of a pin (rules R8, R137) -/

@[simp] theorem pinLevel_enabled (v : Bool) : pinLevel true v = Level.ofBool v := rfl

@[simp] theorem pinLevel_disabled (v : Bool) : pinLevel false v = .z := rfl

/-! ## What a settled instance drives -/

/-- CLK.INV and MISO.IN hold in a settled instance (rules R133, R135). -/
theorem Core.Settled.clk_miso {b : Build} {tck : Bool} {c : Core} (h : c.Settled b tck) :
    c.pins.clkO = !tck ∧ c.pins.misoOe = false ∧ c.pinMiso = .z := by
  obtain ⟨-, hclk, -, -, -, hmiso, -⟩ := h
  exact ⟨hclk, hmiso, by simp [Core.pinMiso, hmiso]⟩

/-- OE.SEL holds in a settled instance (rule R134), and `sel` is the selection of the build's mode (rules R81, R86). -/
theorem Core.Settled.enables {b : Build} {tck : Bool} {c : Core} (h : c.Settled b tck) :
    c.pins.csnOe = c.sig.sel ∧ c.pins.clkOe = c.sig.sel ∧ c.pins.mosiOe = c.sig.sel ∧
      (b.detMode = .passthrough → c.sig.sel = c.jt.sel) ∧ (b.detMode = .latched → c.sig.sel = c.selected) := by
  have hpass : b.detMode = .passthrough → c.sig.sel = c.jt.sel := fun hm => by rw [h.sig_passthrough hm]
  have hlatched : b.detMode = .latched → c.pins.csnOe = c.selected := h.csnOe_latched
  obtain ⟨-, -, hcsn, hclk, hmosi, -⟩ := h
  exact ⟨hcsn, hclk, hmosi, hpass, fun hm => hcsn.symm.trans (hlatched hm)⟩

/-! ## The statements -/

/-- Settles O11: the register by what each kind of edge leaves of `tdo_q`, the host's log by the steps at the two edges. -/
theorem readBackRegister : Obligations.ReadBackRegister := by
  refine ⟨fun _ => rfl, fun s t l rest hb hs => ⟨?_, step_fall_hostLog hb hs⟩, fun s t l rest => step_keeps_tdoQ,
    fun s t l rest => step_rise_hostLog, fun _ => rfl⟩
  exact (step_fall_tdoQ hb hs).mono fun _ _ h => ⟨h, h⟩

/-- Settles O12: after a change of levels every instance has settled on the new `tck`, and only its rising edge, at which the SPI
clock falls, reaches the registers behind `cs_n` and `mosi`. -/
theorem clockAndMisoPins : Obligations.ClockAndMisoPins := by
  refine ⟨fun _ => rfl, fun _ => rfl, fun s t l rest he hs => ?settled, fun s t l rest he hr hs => ?registers⟩
  case settled =>
    obtain ⟨htck, -⟩ := step_takesLevels he hs
    obtain ⟨-, hsettled⟩ := step_levels_settled he hs
    exact ⟨htck, htck ▸ hsettled.mono fun _ h => h.clk_miso⟩
  case registers => exact (step_keeps_domainA he hr hs).mono fun _ _ ⟨_, _, _, hcsn, hmosi⟩ => ⟨hcsn, hmosi⟩

/-- Settles O39: after a change of levels every instance has settled, so its enables are its selection; without a rising edge no
Domain-A register is reached; and a pin's level follows its enable. -/
theorem enablesFollowSelection : Obligations.EnablesFollowSelection := by
  refine ⟨fun _ => rfl, fun s t l rest he hs => ?enables, fun s t l rest => step_keeps_domainA, fun c => ?levels⟩
  case enables =>
    obtain ⟨hbuild, hsettled⟩ := step_levels_settled he hs
    obtain ⟨-, -, -, hjt, -⟩ := step_takesLevels he hs
    have henables := hsettled.mono fun _ h => h.enables
    rw [hbuild] at henables
    obtain ⟨_, _, _, hsel, _⟩ := henables.1
    exact ⟨henables, fun hm => hjt ▸ hsel hm⟩
  case levels =>
    simp +contextual [Core.pinCsn, Core.pinClk, Core.pinMosi]

end Sys2Proof.Machine
end

section
/-! PROOF. The dispatch tables and the stream grammar (rules R60 to R62, R65 to R67): a row selects exactly its own words, the words
of a state are those of the table, and the bits of a frame are read back as the frame. -/

namespace Sys2Proof

open Machine

/-! ## Rows of a dispatch table -/

theorem Row.hits_iff {n : Nat} {α : Type} (r : Row n α) (w : BitVec n) : r.hits w = true ↔ w &&& r.mask = r.pattern := by
  simp [Row.hits]

/-- A row selects every word of its own, whatever the free bits are, when its pattern has no bit outside its mask. -/
theorem Row.hits_word {n : Nat} {α : Type} {r : Row n α} (h : r.pattern &&& r.mask = r.pattern) (free : BitVec n) :
    r.hits (r.word free) = true := by
  have hfree : free &&& ~~~r.mask &&& r.mask = 0#n := by
    rw [BitVec.and_assoc, BitVec.and_comm (~~~r.mask), BitVec.and_not_self]
    exact BitVec.and_zero
  rw [Row.hits_iff, Row.word, BitVec.and_or_distrib_right, h, hfree, BitVec.or_zero]

/-- Two rows that select one word agree on the bits that both care about. -/
theorem Row.agree_of_hits {n : Nat} {α : Type} {r r' : Row n α} {w : BitVec n} (h : r.hits w = true)
    (h' : r'.hits w = true) : r.pattern &&& r'.mask = r'.pattern &&& r.mask := by
  rw [Row.hits_iff] at h h'
  rw [← h, ← h', BitVec.and_assoc, BitVec.and_assoc, BitVec.and_comm r.mask]

theorem AOp.pattern_and_mask (o : AOp) : o.row.pattern &&& o.row.mask = o.row.pattern := by
  cases o <;> rfl

theorem DetOp.pattern_and_mask (o : DetOp) : o.row.pattern &&& o.row.mask = o.row.pattern := by
  cases o <;> rfl

/-- The nine rows of rule R66 are disjoint: any two differ in a bit that both care about. -/
theorem AOp.eq_of_hits {o o' : AOp} {w : DWord} (h : o.row.hits w = true) (h' : o'.row.hits w = true) : o = o' := by
  have differ : ∀ p q : AOp, p.row.pattern &&& q.row.mask = q.row.pattern &&& p.row.mask → p = q := by
    intro p q
    cases p <;> cases q <;> decide
  exact differ o o' (Row.agree_of_hits h h')

/-- The four rows of rule R67 are disjoint. -/
theorem DetOp.eq_of_hits {o o' : DetOp} {w : TWord} (h : o.row.hits w = true) (h' : o'.row.hits w = true) : o = o' := by
  have differ : ∀ p q : DetOp, p.row.pattern &&& q.row.mask = q.row.pattern &&& p.row.mask → p = q := by
    intro p q
    cases p <;> cases q <;> decide
  exact differ o o' (Row.agree_of_hits h h')

@[simp] theorem AOp.row_op (o : AOp) : o.row.op = o := by cases o <;> rfl

@[simp] theorem DetOp.row_op (o : DetOp) : o.row.op = o := by cases o <;> rfl

/-- In a table of disjoint rows, the operation looked up is the one whose row selects the word. -/
theorem lookup_eq_ok_iff {n : Nat} {α : Type} {row : α → Row n α} {ops : List α} {w : BitVec n}
    (hop : ∀ o, (row o).op = o) (hall : ∀ o, o ∈ ops)
    (hdisjoint : ∀ o o', (row o).hits w = true → (row o').hits w = true → o = o') (o : α) :
    lookup (ops.map row) w = .ok o ↔ (row o).hits w = true := by
  unfold lookup
  cases hfind : (ops.map row).find? (fun r => r.hits w) with
  | none =>
    have := List.find?_eq_none.1 hfind (row o) (List.mem_map_of_mem (hall o))
    simpa using this
  | some r =>
    have hr : r.hits w = true := List.find?_some (p := fun r : Row n α => r.hits w) hfind
    obtain ⟨o', -, rfl⟩ := List.mem_map.1 (List.mem_of_find?_eq_some hfind)
    simp only [hop, Except.ok.injEq]
    exact ⟨fun h => h ▸ hr, fun h => hdisjoint _ _ hr h⟩

theorem decodeA_eq_ok_iff (w : DWord) (o : AOp) : decodeA w = .ok o ↔ o.row.hits w = true :=
  lookup_eq_ok_iff AOp.row_op (fun o => by cases o <;> decide) (fun _ _ => AOp.eq_of_hits) o

theorem decodeDet_eq_ok_iff (w : TWord) (o : DetOp) : decodeDet w = .ok o ↔ o.row.hits w = true :=
  lookup_eq_ok_iff DetOp.row_op (fun o => by cases o <;> decide) (fun _ _ => DetOp.eq_of_hits) o

/-- A code of a Domain-A operation decodes to it, whatever the bits are that its row does not care about. -/
theorem decode_word_aOp (b : Build) (o : AOp) (free : BitVec 6) : decode b (.edgeA (o.row.word free)) = .ok o.instr := by
  have h := (decodeA_eq_ok_iff _ o).2 (Row.hits_word o.pattern_and_mask free)
  simp [decode, h, Except.map]

/-- The same of a detector operation. -/
theorem decode_word_detOp (b : Build) (o : DetOp) (free : BitVec 3) :
    decode b (.edgeDet (o.row.word free)) = .ok o.instr := by
  have h := (decodeDet_eq_ok_iff _ o).2 (Row.hits_word o.pattern_and_mask free)
  simp [decode, h, Except.map]

/-! ## Words and their fields -/

/-- A word of six bits is made of the five fields of rule R66. -/
theorem dWord_eq_fields (w : DWord) : w = BitVec.ofBool (w.getLsbD 5) ++ w.extractLsb' 3 2 ++ BitVec.ofBool (w.getLsbD 2) ++
    BitVec.ofBool (w.getLsbD 1) ++ BitVec.ofBool (w.getLsbD 0) := by
  revert w
  decide

/-- A word of three bits is made of the three fields of rule R67. -/
theorem tWord_eq_fields (w : TWord) :
    w = BitVec.ofBool (w.getLsbD 2) ++ BitVec.ofBool (w.getLsbD 1) ++ BitVec.ofBool (w.getLsbD 0) := by
  revert w
  decide

/-- Every `st` but `11` is the label of a state of the machine (rule R11). -/
theorem exists_label {st : BitVec 2} (h : st ≠ 0b11#2) : ∃ f : Fsm, st = f.label := by
  have cover : ∀ x : BitVec 2, x = 0b11#2 ∨ x = Fsm.idle.label ∨ x = Fsm.header.label ∨ x = Fsm.transfer.label := by decide
  rcases cover st with e | e | e | e
  · exact absurd e h
  all_goals exact ⟨_, e⟩

/-- A word whose `st` is not `11` selects an operation. -/
theorem exists_decodeA {w : DWord} (h : w.extractLsb' 3 2 ≠ 0b11#2) : ∃ o, decodeA w = .ok o := by
  obtain ⟨f, hf⟩ := exists_label h
  rw [dWord_eq_fields w, hf]
  exact ⟨_, decodeA_fields ..⟩

/-- Every word of the detector selects an operation. -/
theorem exists_decodeDet (w : TWord) : ∃ o, decodeDet w = .ok o := by
  have hlabel : w.getLsbD 1 = (if w.getLsbD 1 then Det.held else Det.wait).label := by
    cases w.getLsbD 1 <;> rfl
  rw [tWord_eq_fields w, hlabel]
  exact ⟨_, decodeDet_fields ..⟩

/-- The fields of the word that a concatenation makes. -/
theorem getLsbD_fields (a c d e : Bool) (st : BitVec 2) :
    let w : DWord := BitVec.ofBool a ++ st ++ BitVec.ofBool c ++ BitVec.ofBool d ++ BitVec.ofBool e
    w.getLsbD 5 = a ∧ w.extractLsb' 3 2 = st ∧ w.getLsbD 2 = c ∧ w.getLsbD 1 = d ∧ w.getLsbD 0 = e := by
  revert a c d e st
  decide

theorem getLsbD_detFields (a d e : Bool) :
    let w : TWord := BitVec.ofBool a ++ BitVec.ofBool d ++ BitVec.ofBool e
    w.getLsbD 2 = a ∧ w.getLsbD 1 = d ∧ w.getLsbD 0 = e := by
  revert a d e
  decide

/-! ## Numbers as bits -/

/-- The low `n` bits of a number do not see what stands above them. -/
theorem msbBits_mod {n m : Nat} (h : n ≤ m) (v : Nat) : msbBits n (v % 2 ^ m) = msbBits n v := by
  induction n with
  | zero => rfl
  | succ n ih =>
    have hbit : (v % 2 ^ m).testBit n = v.testBit n := by simp [Nat.testBit_mod_two_pow]; omega
    rw [msbBits, msbBits, ih (by omega), hbit]

/-- The bits of the number that bits spell are these bits. -/
theorem msbBits_msbValue (bits : List Bool) : msbBits bits.length (msbValue bits) = bits := by
  induction bits with
  | nil => rfl
  | cons b bs ih =>
    have hbit : (2 ^ bs.length * b.toNat + msbValue bs).testBit bs.length = b := by
      rw [Nat.testBit_mul_two_pow_add_eq, Nat.testBit_lt_two_pow (msbValue_lt bs)]
      cases b <;> rfl
    rw [msbValue_cons, Nat.mul_comm, List.length_cons, msbBits, hbit, ← msbBits_mod le_rfl, Nat.mul_add_mod,
      msbBits_mod le_rfl, ih]

/-! ## Stream items (rules R60 to R62) -/

/-- The header of a well-formed frame starts with the trigger. -/
theorem msbBits_of_frame {w h : Nat} (hw : 1 ≤ w) (hlo : 2 ^ (w - 1) ≤ h) (hhi : h < 2 ^ w) :
    msbBits w h = true :: msbBits (w - 1) h := by
  obtain ⟨n, rfl⟩ : ∃ n, w = n + 1 := ⟨w - 1, by omega⟩
  have htrigger : h.testBit n = true := Nat.testBit_of_two_pow_le_and_two_pow_add_one_gt hlo hhi
  rw [msbBits, htrigger]
  rfl

theorem frameWf_iff {b : Build} {h : Nat} {body : List Bool} :
    frameWf b h body = true ↔ 2 ^ (b.w - 1) ≤ h ∧ h ≤ 2 ^ b.w - 1 ∧ body.length = h := by
  simp [frameWf, and_assoc]

theorem Build.one_le_w {b : Build} (h : b.wf = true) : 1 ≤ b.w := by simpa [Build.wf] using h

/-- The frame at the head of a stream is read back, and the bits after it are left (rule R61). -/
theorem decodeItem_frame {b : Build} {h : Nat} {body : List Bool} (hb : b.wf = true) (hf : frameWf b h body = true)
    (rest : List Bool) : decodeItem b.w (frameBits b.w h body ++ rest) = .ok (.xfer h body, rest) := by
  obtain ⟨hlo, hhi, hlen⟩ := frameWf_iff.1 hf
  have hlt : h < 2 ^ b.w := by have := Nat.two_pow_pos b.w; omega
  have hheader := msbBits_of_frame (Build.one_le_w hb) hlo hlt
  have hvalue : msbValue (true :: msbBits (b.w - 1) h) = h := by
    rw [← hheader, msbValue_msbBits, Nat.mod_eq_of_lt hlt]
  have htake : (msbBits (b.w - 1) h ++ (body ++ rest)).take (b.w - 1) = msbBits (b.w - 1) h :=
    List.take_left' (msbBits_length ..)
  have hdrop : (msbBits (b.w - 1) h ++ (body ++ rest)).drop (b.w - 1) = body ++ rest :=
    List.drop_left' (msbBits_length ..)
  simp [frameBits, hheader, decodeItem, htake, hdrop, hvalue, hlen]

/-- Every frame that is read spells itself: its header is the number of its body bits, and a trigger comes first. -/
theorem decodeItem_eq_frame {b : Build} {bits rest body : List Bool} {h : Nat} (hb : b.wf = true)
    (hd : decodeItem b.w bits = .ok (.xfer h body, rest)) :
    2 ^ (b.w - 1) ≤ h ∧ h < 2 ^ b.w ∧ body.length = h ∧ bits = frameBits b.w h body ++ rest := by
  match bits with
  | [] => simp [decodeItem] at hd
  | false :: _ => simp [decodeItem] at hd
  | true :: after =>
    simp only [decodeItem] at hd
    split at hd
    · cases hd
    split at hd
    · cases hd
    next hheader hbody =>
    simp only [Except.ok.injEq, Prod.mk.injEq, Instr.xfer.injEq] at hd
    obtain ⟨⟨rfl, rfl⟩, rfl⟩ := hd
    have hw := Build.one_le_w hb
    have hlen : (true :: after.take (b.w - 1)).length = b.w := by simp; omega
    have hlt := msbValue_lt (true :: after.take (b.w - 1))
    have hbits := msbBits_msbValue (true :: after.take (b.w - 1))
    rw [hlen] at hlt hbits
    refine ⟨?_, hlt, ?_, ?_⟩
    · have hpow : (after.take (b.w - 1)).length = b.w - 1 := by
        rw [List.length_cons] at hlen
        omega
      rw [msbValue_cons, hpow]
      simp
    · simp only [List.length_drop] at hbody
      simp
      omega
    · rw [frameBits, hbits, List.append_assoc, List.take_append_drop, List.cons_append,
        List.take_append_drop]

/-- The items of rule R60: a NOP, or a frame that a stream can spell. -/
def IsItem (b : Build) (i : Instr) : Prop := i = .nop ∨ ∃ h body, i = .xfer h body ∧ frameWf b h body = true

/-- The first item of a stream that spells it is read back. -/
theorem decodeItem_itemBits {b : Build} {i : Instr} (hb : b.wf = true) (hi : IsItem b i) (rest : List Bool) :
    decodeItem b.w (itemBits b i ++ rest) = .ok (i, rest) := by
  obtain rfl | ⟨h, body, rfl, hf⟩ := hi
  · rfl
  · exact decodeItem_frame hb hf rest

theorem decodeItems_encodeStream {b : Build} (hb : b.wf = true) {items : List Instr} (hi : ∀ i ∈ items, IsItem b i)
    {fuel : Nat} (hfuel : items.length ≤ fuel) : decodeItems b.w fuel (encodeStream b items) = (items, []) := by
  induction items generalizing fuel with
  | nil => cases fuel <;> rfl
  | cons i is ih =>
    obtain ⟨n, rfl⟩ : ∃ n, fuel = n + 1 := ⟨fuel - 1, by simp at hfuel; omega⟩
    have hrest := ih (fun j hj => hi j (by simp [hj])) (by simpa using hfuel)
    have hhead := decodeItem_itemBits hb (hi i (by simp)) (encodeStream b is)
    simp [encodeStream] at hrest hhead ⊢
    simp [decodeItems, hhead, hrest]

/-- A stream has at least one bit for each of its items. -/
theorem length_le_encodeStream {b : Build} (hb : b.wf = true) {items : List Instr} (hi : ∀ i ∈ items, IsItem b i) :
    items.length ≤ (encodeStream b items).length := by
  induction items with
  | nil => simp
  | cons i is ih =>
    have hrest := ih fun j hj => hi j (by simp [hj])
    have hpos : 1 ≤ (itemBits b i).length := by
      obtain rfl | ⟨h, body, rfl, -⟩ := hi i (by simp)
      · exact le_rfl
      · have := Build.one_le_w hb
        simp [itemBits, encode]
        omega
    simp only [encodeStream, List.flatMap_cons, List.length_append, List.length_cons] at hrest ⊢
    omega

/-! ## The statements -/

/-- Settles O17: an operation of an edge by the row that its code is a word of, a stream item by the grammar; the unconditional
operations have no code. -/
theorem decodeOfEncode : Obligations.DecodeOfEncode := by
  intro b i free code hb hi he
  cases i with
  | aReset => cases he; exact decode_word_aOp b .reset free
  | idleNop => cases he; exact decode_word_aOp b .nop free
  | idleTrig => cases he; exact decode_word_aOp b .trig free
  | idleTrig1 => cases he; exact decode_word_aOp b .trig1 free
  | headShift => cases he; exact decode_word_aOp b .shift free
  | headLast => cases he; exact decode_word_aOp b .last free
  | headLast0 => cases he; exact decode_word_aOp b .last0 free
  | xferStep => cases he; exact decode_word_aOp b .step free
  | xferLast => cases he; exact decode_word_aOp b .xlast free
  | detClear => cases he; exact decode_word_detOp b .clear _
  | detWait => cases he; exact decode_word_detOp b .wait _
  | detLatch => cases he; exact decode_word_detOp b .latch _
  | detHold => cases he; exact decode_word_detOp b .hold _
  | detPass | detOut | mosiReg | csnReg | tdoReg | clkInv | oeSel | misoIn | auxHigh => cases he
  | nop => cases he; rfl
  | xfer h body =>
    cases he
    have hitem := decodeItem_frame hb hi []
    rw [List.append_nil] at hitem
    simp [decode, hitem]

/-- Settles O18: each item is read back from the head of the stream, and the stream has fuel for all of them. -/
theorem streamParsesIntoItsItems : Obligations.StreamParsesIntoItsItems := fun _ _ hb hi =>
  decodeItems_encodeStream hb hi (length_le_encodeStream hb hi)

/-- Settles O19: a frame that is read spells itself. -/
theorem framesThatAStreamCanSpell : Obligations.FramesThatAStreamCanSpell := by
  intro b bits rest h body hb hd
  obtain ⟨hlo, hlt, hlen, hbits⟩ := decodeItem_eq_frame hb hd
  refine ⟨hlo, by omega, hlen, hbits, ?_⟩
  rw [hbits, List.length_append, frameBits_length, hlen]

/-- Settles O15: the word's fields by the concatenation that makes it, the rows by their disjointness, coverage by the label that
every `st` but `11` is. -/
theorem domainADispatch : Obligations.DomainADispatch := by
  refine ⟨fun s => ?fields, rfl, fun w o => ?row, fun w o o' h h' => ?disjoint, fun w h => ?cover, fun s => ⟨_, decodeA_dWord s⟩⟩
  case fields =>
    obtain ⟨hrst, hst, htrig, hlast, hzero⟩ := getLsbD_fields s.rstA s.trig s.last s.zero s.core.fsm.label
    exact ⟨hrst, hst.trans (by cases s.core.fsm <;> rfl), htrig, hlast, hzero⟩
  case row => rw [decodeA_eq_ok_iff, Row.hits_iff]
  case disjoint => exact AOp.eq_of_hits ((Row.hits_iff ..).2 h) ((Row.hits_iff ..).2 h')
  case cover =>
    obtain ⟨o, ho⟩ := exists_decodeA h
    exact ⟨o, (Row.hits_iff ..).1 ((decodeA_eq_ok_iff w o).1 ho)⟩

/-- Settles O20, by evaluating the decoder on the words that the spec writes out. -/
theorem wordsOfTheSpecDecode : Obligations.WordsOfTheSpecDecode :=
  ⟨by decide, by decide, by decide, by decide, by decide, by decide, by decide, by decide, by decide⟩

end Sys2Proof
end

section
/-! PROOF. The state machine at a rising edge (rules R101 to R110): which Domain-A operation its dispatch word selects, and that the
edge is the listing of 41_bridge_fsm.md section 8. -/

namespace Sys2Proof.Machine

/-! ## Which Domain-A operation is selected (rule R66) -/

/-- The condition under which each operation is selected, in terms of the registers and signals before the edge. -/
def State.Selects (s : State) : AOp → Prop
  | .reset => s.core.sig.capture = true
  | .nop => s.core.sig.capture = false ∧ s.core.fsm = .idle ∧ (s.core.sig.shift && s.tdi) = false
  | .trig =>
    s.core.sig.capture = false ∧ s.core.fsm = .idle ∧ (s.core.sig.shift && s.tdi) = true ∧ s.build.w ≠ 1
  | .trig1 =>
    s.core.sig.capture = false ∧ s.core.fsm = .idle ∧ (s.core.sig.shift && s.tdi) = true ∧ s.build.w = 1
  | .shift => s.core.sig.capture = false ∧ s.core.fsm = .header ∧ 2 ≤ s.core.head
  | .last =>
    s.core.sig.capture = false ∧ s.core.fsm = .header ∧ s.core.head ≤ 1 ∧ shl1 s.build.w s.core.bits s.tdi ≠ 0
  | .last0 =>
    s.core.sig.capture = false ∧ s.core.fsm = .header ∧ s.core.head ≤ 1 ∧ shl1 s.build.w s.core.bits s.tdi = 0
  | .step => s.core.sig.capture = false ∧ s.core.fsm = .transfer ∧ 2 ≤ s.core.bits
  | .xlast => s.core.sig.capture = false ∧ s.core.fsm = .transfer ∧ s.core.bits ≤ 1

/-- The operation that the Domain-A dispatch word of a state selects. -/
def State.aOp (s : State) : AOp := AOp.select s.rstA s.core.fsm s.trig s.last s.zero

/-- The selected operation meets its condition. -/
theorem selects_aOp (s : State) : s.Selects s.aOp := by
  cases hc : s.core.sig.capture with
  | true => simp [State.aOp, AOp.select, State.rstA, hc, State.Selects]
  | false =>
    cases hf : s.core.fsm with
    | idle =>
      cases ht : s.core.sig.shift && s.tdi <;> by_cases hw : s.build.w = 1 <;>
        simp [State.aOp, AOp.select, State.rstA, State.trig, State.last, hc, hf, ht, hw, State.Selects]
    | header =>
      by_cases hl : s.core.head ≤ 1
      · by_cases hz : shl1 s.build.w s.core.bits s.tdi = 0 <;>
          simp [State.aOp, AOp.select, State.rstA, State.last, State.zero, hc, hf, hl, hz, State.Selects]
      · simp [State.aOp, AOp.select, State.rstA, State.last, hc, hf, hl, State.Selects]
        omega
    | transfer =>
      by_cases hl : s.core.bits ≤ 1
      · simp [State.aOp, AOp.select, State.rstA, State.last, hc, hf, hl, State.Selects]
      · simp [State.aOp, AOp.select, State.rstA, State.last, hc, hf, hl, State.Selects]
        omega

/-- An operation whose condition is met is the selected one: the condition fixes every field of the word that its row reads. -/
theorem aOp_eq_of_selects {s : State} {o : AOp} (h : s.Selects o) : s.aOp = o := by
  unfold State.aOp
  cases o with
  | reset =>
    have hc : s.core.sig.capture = true := h
    simp [AOp.select, State.rstA, hc]
  | nop =>
    obtain ⟨hc, hf, ht⟩ := h
    exact AOp.select_eq_nop.2 ⟨hc, hf, ht⟩
  | trig =>
    obtain ⟨hc, hf, ht, hw⟩ := h
    exact AOp.select_eq_trig.2 ⟨hc, hf, ht, (State.last_eq_false_of_idle hf).2 hw⟩
  | trig1 =>
    obtain ⟨hc, hf, ht, hw⟩ := h
    simp [AOp.select, State.rstA, State.trig, State.last, hc, hf, ht, hw]
  | shift =>
    obtain ⟨hc, hf, hh⟩ := h
    simp [AOp.select, State.rstA, State.last, hc, hf, show ¬ s.core.head ≤ 1 by omega]
  | last =>
    obtain ⟨hc, hf, hh, hz⟩ := h
    simp [AOp.select, State.rstA, State.last, State.zero, hc, hf, hh, hz]
  | last0 =>
    obtain ⟨hc, hf, hh, hz⟩ := h
    simp [AOp.select, State.rstA, State.last, State.zero, hc, hf, hh, hz]
  | step =>
    obtain ⟨hc, hf, hb⟩ := h
    simp [AOp.select, State.rstA, State.last, hc, hf, show ¬ s.core.bits ≤ 1 by omega]
  | xlast =>
    obtain ⟨hc, hf, hb⟩ := h
    simp [AOp.select, State.rstA, State.last, hc, hf, hb]

/-- Each operation is the decoded one exactly under its condition. -/
theorem decode_aOp_iff (s : State) (o : AOp) : decode s.build (.edgeA s.dWord) = .ok o.instr ↔ s.Selects o := by
  rw [decode_dWord_iff]
  exact ⟨fun h => h ▸ selects_aOp s, aOp_eq_of_selects⟩

/-! ## The listing of the step function -/

/-- The listing's step from the registers and signals of a state. -/
def State.nextFsm (s : State) : Fsm × Nat × Nat :=
  stepA s.build s.core.fsm s.core.head s.core.bits s.core.sig.capture s.core.sig.shift s.tdi

/-- An operation writes, under its condition, what the listing gives. -/
theorem runA_of_selects {s a : State} {o : AOp} (h : s.Selects o) (ha : runA o s = .next a) :
    (a.core.fsm, a.core.head, a.core.bits) = s.nextFsm := by
  unfold State.nextFsm
  cases o with
  | reset =>
    have hc : s.core.sig.capture = true := h
    cases ha
    simp [stepA, hc]
  | nop =>
    obtain ⟨hc, hf, ht⟩ := h
    cases ha
    simp [stepA, hc, hf, ht]
  | trig =>
    obtain ⟨hc, hf, ht, hw⟩ := h
    cases ha
    simp [stepA, hc, hf, ht, hw]
  | trig1 =>
    obtain ⟨hc, hf, ht, hw⟩ := h
    cases ha
    simp [stepA, hc, hf, ht, hw, State.finishHeader]
  | shift =>
    obtain ⟨hc, hf, hh⟩ := h
    cases ha
    simp [stepA, hc, hf, show ¬ s.core.head ≤ 1 by omega]
  | last =>
    obtain ⟨hc, hf, hh, -⟩ := h
    cases ha
    simp [stepA, hc, hf, hh, State.finishHeader]
  | last0 =>
    obtain ⟨hc, hf, hh, hz⟩ := h
    cases ha
    simp [stepA, hc, hf, hh, hz, State.finishHeader]
  | step =>
    obtain ⟨hc, hf, hb⟩ := h
    cases ha
    simp [stepA, hc, hf, show ¬ s.core.bits ≤ 1 by omega]
  | xlast =>
    obtain ⟨hc, hf, hb⟩ := h
    cases ha
    simp [stepA, hc, hf, hb]

/-- A rising edge takes the three registers through the listing. -/
theorem risen_fsm (s : State) : (s.risen.fsm, s.risen.head, s.risen.bits) = s.nextFsm := by
  obtain ⟨-, d, a, -, ha, e⟩ := riseOne_eq s
  rw [edgeA_eq] at ha
  rw [e]
  exact runA_of_selects (selects_aOp s) ha

/-- The step at a rising edge takes the three registers through the listing. -/
theorem step_rise_fsm {s t : State} {l : Levels} {rest : List Stim} (hb : BeforeRise s l rest) (hs : step s = .next t) :
    (t.core.fsm, t.core.head, t.core.bits) = s.nextFsm := by
  rw [step_rise hb] at hs
  cases hs
  exact risen_fsm s

/-- A Domain-A reset overrides every other operation. -/
theorem nextFsm_of_capture {s : State} (h : s.core.sig.capture = true) : s.nextFsm = (.idle, s.build.w - 1, s.core.bits) := by
  simp [State.nextFsm, stepA, h]

/-- In IDLE nothing but a trigger is taken. -/
theorem nextFsm_of_idle {s : State} (hc : s.core.sig.capture = false) (hf : s.core.fsm = .idle)
    (ht : (s.core.sig.shift && s.tdi) = false) : s.nextFsm = (.idle, s.core.head, s.core.bits) := by
  simp [State.nextFsm, stepA, hc, hf, ht]

/-- The trigger is the first header bit, and with `W = 1` the whole header. -/
theorem nextFsm_of_trigger {s : State} (hc : s.core.sig.capture = false) (hf : s.core.fsm = .idle)
    (ht : (s.core.sig.shift && s.tdi) = true) : s.nextFsm =
      if s.build.w = 1 then finish s.build (shl1 s.build.w s.core.bits true)
      else (.header, s.build.w - 1, shl1 s.build.w s.core.bits true) := by
  simp [State.nextFsm, stepA, hc, hf, ht]

/-- In HEADER the selection and the flags are not read (decision D18). -/
theorem nextFsm_of_header {s : State} (hc : s.core.sig.capture = false) (hf : s.core.fsm = .header) : s.nextFsm =
    if s.core.head ≤ 1 then finish s.build (shl1 s.build.w s.core.bits s.tdi)
    else (.header, s.core.head - 1, shl1 s.build.w s.core.bits s.tdi) := by
  simp [State.nextFsm, stepA, hc, hf]

/-- In TRANSFER not even `tdi` is read. -/
theorem nextFsm_of_transfer {s : State} (hc : s.core.sig.capture = false) (hf : s.core.fsm = .transfer) : s.nextFsm =
    if s.core.bits ≤ 1 then (.idle, s.core.head, 0) else (.transfer, s.core.head, s.core.bits - 1) := by
  simp [State.nextFsm, stepA, hc, hf]

/-! ## A one-bit header -/

/-- One bit shifted into one bit is that bit. -/
theorem shl1_one (v : Nat) (b : Bool) : shl1 1 v b = b.toNat := by
  unfold shl1
  cases b <;> simp

/-- With `W = 1` the trigger leads to TRANSFER for one tick. -/
theorem nextFsm_of_trigger_one {s : State} (hw : s.build.w = 1) (hc : s.core.sig.capture = false) (hf : s.core.fsm = .idle)
    (ht : (s.core.sig.shift && s.tdi) = true) : s.nextFsm = (.transfer, 0, 1) := by
  rw [nextFsm_of_trigger hc hf ht, if_pos hw, hw, shl1_one, Bool.toNat_true, finish_of_ne one_ne_zero, hw]

/-! ## A complete header -/

/-- The trigger bit that has reached the place below the top reaches the top with the last header bit, so that the header's value is
at least `2^(W-1)` (rule R106). -/
theorem le_shl1_of_counting {s : State} (h : s.core.Counting s.build) (hf : s.core.fsm = .header) (hh : s.core.head ≤ 1) :
    2 ^ (s.build.w - 1) ≤ shl1 s.build.w s.core.bits s.tdi := by
  obtain ⟨-, hinv⟩ := h
  simp only [hf] at hinv
  obtain ⟨hw, hpos, hbit⟩ := hinv
  obtain ⟨n, hn⟩ : ∃ n, s.build.w = n + 2 := ⟨s.build.w - 2, by omega⟩
  have hone : s.core.head = 1 := by omega
  rw [hn, hone] at hbit
  rw [hn]
  refine Nat.ge_two_pow_of_testBit (i := n + 1) ?_
  rw [shl1_testBit_succ]
  simpa using hbit

/-! ## A settled machine that is not selected -/

/-- A settled bridge that is not selected shows the state machine neither a reset nor a shift (rules R81, R86). -/
theorem Core.Settled.deselected {b : Build} {tck : Bool} {c : Core} (h : c.Settled b tck) (hsel : c.sig.sel = false) :
    c.sig.capture = false ∧ c.sig.shift = false := by
  obtain ⟨hsig, -⟩ := h
  rw [hsig] at hsel ⊢
  cases hm : b.detMode <;> simp_all [Core.detSignals]

/-! ## The statements -/

/-- Settles O26: the step's registers are those of the edge. -/
theorem risingEdgeIsTheListing : Obligations.RisingEdgeIsTheListing := fun _ _ _ _ => step_rise_fsm

/-- Settles O1: selection by the condition of A.RESET, the edge by the listing and by the ordinary updates of the two pin
registers. -/
theorem domainAResetOperation : Obligations.DomainAResetOperation := by
  refine ⟨fun _ => rfl, fun s => decode_aOp_iff s .reset, fun s t l rest hb hc hs => ?edge, fun s t l rest hb hf hs => ?released,
    fun s h hsel => (h.1.deselected hsel).1⟩
  case edge =>
    obtain ⟨hmosi, hcsn, -⟩ := step_rise_pins hb hs
    have hfsm := (step_rise_fsm hb hs).trans (nextFsm_of_capture hc)
    simp only [Prod.mk.injEq] at hfsm
    obtain ⟨hidle, hhead, hbits⟩ := hfsm
    exact ⟨hidle, hhead, hbits, hmosi, hcsn⟩
  case released =>
    obtain ⟨-, hcsn, -⟩ := step_rise_pins hb hs
    simp [hcsn, hf]

/-- Settles O3: the effect by the value of a one-bit header, the edge by the listing. -/
theorem oneBitHeader : Obligations.OneBitHeader := by
  refine ⟨fun s hw => ?effect, fun s => decode_aOp_iff s .trig1, fun s t l rest hb hw hf hs => ?edge⟩
  case effect =>
    change Host.Outcome.next (s.finishHeader (shl1 s.build.w s.core.bits true)) = _
    rw [State.finishHeader, hw, shl1_one, Bool.toNat_true, finish_of_ne one_ne_zero, hw]
    rfl
  case edge =>
    have hfsm : t.core.fsm = s.nextFsm.1 := congrArg Prod.fst (step_rise_fsm hb hs)
    rw [hfsm]
    cases hc : s.core.sig.capture with
    | true => simp [nextFsm_of_capture hc]
    | false =>
      cases ht : s.core.sig.shift && s.tdi with
      | true => simp [nextFsm_of_trigger_one hw hc hf ht]
      | false => simp [nextFsm_of_idle hc hf ht]

/-- Settles O4: effects by the two cases of `finish`, selection by the conditions, and the value of a complete header by the place
of its trigger bit. -/
theorem headerOperations : Obligations.HeaderOperations := by
  refine ⟨fun _ => rfl, fun s hv => ?last, fun s hv => ?zero, fun s hz => ?direct, fun s hz => ?oneTick,
    fun s => decode_aOp_iff s .shift, fun s => decode_aOp_iff s .last, fun s => decode_aOp_iff s .last0, fun s h hf hh => ?value⟩
  case last =>
    change Host.Outcome.next (s.finishHeader _) = _
    rw [State.finishHeader, finish_of_ne hv]
    rfl
  case zero =>
    change Host.Outcome.next (s.finishHeader _) = Host.Outcome.next (s.finishHeader 0)
    rw [hv]
  case direct =>
    change Host.Outcome.next (s.finishHeader 0) = _
    rw [State.finishHeader, finish_zero, hz]
    rfl
  case oneTick =>
    change Host.Outcome.next (s.finishHeader 0) = _
    rw [State.finishHeader, finish_zero, hz]
    rfl
  case value =>
    have hle := le_shl1_of_counting h hf hh
    refine ⟨hle, fun hd => ?_⟩
    obtain ⟨-, -, -, hzero⟩ := (decode_aOp_iff s .last0).1 hd
    have := Nat.two_pow_pos (s.build.w - 1)
    omega

/-- Settles O5: effects by the operations' definitions, selection by the conditions. -/
theorem transferOperations : Obligations.TransferOperations :=
  ⟨fun _ => rfl, fun _ => rfl, fun s => decode_aOp_iff s .step, fun s => decode_aOp_iff s .xlast⟩

/-- Settles O48: inside a frame the listing reads neither the selection nor the flags, and the pin registers read `tdi` and the
state. -/
theorem flagsAreNotReadInsideAFrame : Obligations.FlagsAreNotReadInsideAFrame := by
  intro s s' t t' l l' rest rest' hbuild hne hfsm hhead hbits htdi hc hc' hb hb' hs hs'
  have hnext : s.nextFsm = s'.nextFsm := by
    cases hf : s.core.fsm with
    | idle => exact absurd hf hne
    | header => rw [nextFsm_of_header hc hf, nextFsm_of_header hc' (hfsm ▸ hf), hbuild, hhead, hbits, htdi]
    | transfer => rw [nextFsm_of_transfer hc hf, nextFsm_of_transfer hc' (hfsm ▸ hf), hhead, hbits]
  have hregs := (step_rise_fsm hb hs).trans (hnext.trans (step_rise_fsm hb' hs').symm)
  simp only [Prod.mk.injEq] at hregs
  obtain ⟨hmosi, hcsn, -⟩ := step_rise_pins hb hs
  obtain ⟨hmosi', hcsn', -⟩ := step_rise_pins hb' hs'
  obtain ⟨hf, hh, hn⟩ := hregs
  exact ⟨hf, hh, hn, by rw [hmosi, hmosi', htdi], by rw [hcsn, hcsn', hfsm]⟩

/-- Settles O14: a complete header by what its bits spell, the number that bits spell by the weight of the first one, and `finish`
by its two cases. -/
theorem accumulatorAndFinish : Obligations.AccumulatorAndFinish := by
  refine ⟨fun w v b => ?shift, fun w v bits hw hlen => ?spelled, fun bits => ?weights, fun b v hv => finish_of_ne hv,
    fun b hz => ?direct, fun b hz => ?oneTick⟩
  case shift => cases b <;> rfl
  case spelled =>
    cases bits with
    | nil => simp at hlen; omega
    | cons b bs => exact foldl_shl1_header v hlen
  case weights =>
    induction bits with
    | nil => rfl
    | cons b bs ih =>
      have hweight : ∀ i, bs.length + 1 - 1 - (i + 1) = bs.length - 1 - i := fun i => by omega
      rw [msbValue_cons, ih, List.length_cons, List.range_succ_eq_map, List.map_cons, List.sum_cons, List.map_map]
      simp only [Function.comp_def, List.getElem?_cons_succ, Nat.succ_eq_add_one, hweight]
      cases b <;> simp
  case direct => rw [finish_zero, hz]
  case oneTick => rw [finish_zero, hz]

end Sys2Proof.Machine
end

section
/-! PROOF. Invariants (rules R5, R12, R13, R17, R67, R111, R193): what a rising edge keeps in one bridge, every step keeps in all of
them; and what holds at power-up. -/

namespace Sys2Proof.Machine

/-! ## From one edge to every step -/

/-- A property of the registers other than `tdo_q` that a rising edge keeps, every step keeps on the whole bus. -/
theorem step_everywhere {Q : Build → Core → Prop} (hr : ∀ s : State, Q s.build s.core → Q s.build s.risen)
    (hq : ∀ b c d v, SameRegisters { c with tdoQ := v } d → Q b c → Q b d) {s t : State} (h : s.Everywhere (Q s.build))
    (hs : step s = .next t) : t.Everywhere (Q t.build) :=
  step_preserves (P := fun u => u.Everywhere (Q u.build))
    (fun u l hu => by
      rw [after_build]
      exact after_everywhere l (fun c _ => hr (u.focus c)) (hq u.build) hu)
    (fun _ _ h => h) (fun _ _ h => h) h hs

/-- No step writes the build or the number of bridges. -/
theorem step_build {s t : State} (hs : step s = .next t) : t.build = s.build ∧ t.nInst = s.nInst :=
  step_preserves (P := fun u => u.build = s.build ∧ u.nInst = s.nInst)
    (fun u l hu => by simpa [State.nInst] using hu) (fun _ _ h => h) (fun _ _ h => h) ⟨rfl, rfl⟩ hs

/-- Nor does any operation. -/
theorem exec_build {i : Instr} {s t : State} (h : exec i s = .next t) : t.build = s.build ∧ t.nInst = s.nInst := by
  have items : ∀ {bits}, itemTicks bits s = .next t → t.build = s.build ∧ t.nInst = s.nInst := fun hx =>
    itemTicks_preserves (P := fun u => u.build = s.build ∧ u.nInst = s.nInst)
      (fun u l hu => by simpa [State.nInst] using hu) (fun _ _ h => h) ⟨rfl, rfl⟩ hx
  cases i with
  | aReset | idleNop | idleTrig | idleTrig1 | headShift | headLast | headLast0 => cases h; exact ⟨rfl, rfl⟩
  | xferStep | xferLast => cases h; exact ⟨rfl, rfl⟩
  | detClear | detWait | detLatch | detHold | detPass | detOut => cases h; exact ⟨rfl, rfl⟩
  | mosiReg | csnReg | tdoReg | clkInv | oeSel | misoIn | auxHigh => cases h; exact ⟨rfl, rfl⟩
  | nop =>
    have hx : itemTick false s = .next t := h
    exact items (bits := [false]) (by rw [itemTicks, hx]; rfl)
  | xfer k body => exact items h

/-! ## The ranges of the counters (rules R12, R13) -/

/-- What `finish` writes is in range. -/
theorem finish_inRange {b : Build} {v : Nat} (h : v < 2 ^ b.w) :
    (finish b v).2.1 ≤ b.w - 1 ∧ (finish b v).2.2 ≤ 2 ^ b.w - 1 := by
  by_cases hv : v = 0
  · subst hv
    simp [finish_zero]
  · rw [finish_of_ne hv]
    exact ⟨le_rfl, by dsimp only; omega⟩

theorem nextFsm_inRange {s : State} (h : s.core.InRange s.build) :
    s.nextFsm.2.1 ≤ s.build.w - 1 ∧ s.nextFsm.2.2 ≤ 2 ^ s.build.w - 1 := by
  obtain ⟨hhead, hbits⟩ := h
  have hshift : ∀ b, shl1 s.build.w s.core.bits b ≤ 2 ^ s.build.w - 1 := fun b => by
    have := shl1_lt s.build.w s.core.bits b
    omega
  have hfinish : ∀ b, (finish s.build (shl1 s.build.w s.core.bits b)).2.1 ≤ s.build.w - 1 ∧
      (finish s.build (shl1 s.build.w s.core.bits b)).2.2 ≤ 2 ^ s.build.w - 1 := fun b => finish_inRange (shl1_lt ..)
  cases hc : s.core.sig.capture with
  | true => rw [nextFsm_of_capture hc]; exact ⟨le_rfl, hbits⟩
  | false =>
    cases hf : s.core.fsm with
    | idle =>
      cases ht : s.core.sig.shift && s.tdi with
      | false => rw [nextFsm_of_idle hc hf ht]; exact ⟨hhead, hbits⟩
      | true =>
        rw [nextFsm_of_trigger hc hf ht]
        split
        · exact hfinish true
        · exact ⟨le_rfl, hshift true⟩
    | header =>
      rw [nextFsm_of_header hc hf]
      split
      · exact hfinish s.tdi
      · exact ⟨by dsimp only; omega, hshift s.tdi⟩
    | transfer =>
      rw [nextFsm_of_transfer hc hf]
      split
      · exact ⟨hhead, Nat.zero_le _⟩
      · exact ⟨hhead, by dsimp only; omega⟩

theorem risen_inRange {s : State} (h : s.core.InRange s.build) : s.risen.InRange s.build := by
  have hnext := nextFsm_inRange h
  rw [← risen_fsm] at hnext
  exact hnext

/-! ## The invariants of the counters (rule R111) -/

theorem Core.counting_of_idle {b : Build} {c : Core} (hf : c.fsm = .idle) (hh : c.head = b.w - 1) (hb : c.bits ≤ 2 ^ b.w - 1) :
    c.Counting b := by
  refine ⟨⟨hh.le, hb⟩, ?_⟩
  simpa only [hf] using hh

theorem Core.counting_of_header {b : Build} {c : Core} (hf : c.fsm = .header) (hw : 2 ≤ b.w) (hr : c.InRange b)
    (hh : 1 ≤ c.head) (hbit : c.bits.testBit (b.w - 1 - c.head) = true) : c.Counting b := by
  refine ⟨hr, ?_⟩
  simpa only [hf] using ⟨hw, hh, hbit⟩

theorem Core.counting_of_transfer {b : Build} {c : Core} (hf : c.fsm = .transfer) (hh : c.head = b.w - 1) (hpos : 1 ≤ c.bits)
    (hb : c.bits ≤ 2 ^ b.w - 1) : c.Counting b := by
  refine ⟨⟨hh.le, hb⟩, ?_⟩
  simpa only [hf] using ⟨hpos, hh⟩

theorem Core.Counting.idle {b : Build} {c : Core} (h : c.Counting b) (hf : c.fsm = .idle) : c.head = b.w - 1 := by
  obtain ⟨-, h⟩ := h
  simpa only [hf] using h

theorem Core.Counting.header {b : Build} {c : Core} (h : c.Counting b) (hf : c.fsm = .header) :
    2 ≤ b.w ∧ 1 ≤ c.head ∧ c.bits.testBit (b.w - 1 - c.head) = true := by
  obtain ⟨-, h⟩ := h
  simpa only [hf] using h

theorem Core.Counting.transfer {b : Build} {c : Core} (h : c.Counting b) (hf : c.fsm = .transfer) :
    1 ≤ c.bits ∧ c.head = b.w - 1 := by
  obtain ⟨-, h⟩ := h
  simpa only [hf] using h

/-- The invariants read the three registers of the state machine. -/
theorem Core.Counting.congr {b : Build} {c d : Core} {v : Bool} (hd : SameRegisters { c with tdoQ := v } d)
    (h : c.Counting b) : d.Counting b := by
  obtain ⟨hf, hh, hn, -⟩ := hd
  unfold Core.Counting Core.InRange at h ⊢
  rwa [hf, hh, hn]

/-- A complete header inside the invariants starts a body of at least one bit. -/
theorem nextFsm_of_header_last {s : State} (h : s.core.Counting s.build) (hc : s.core.sig.capture = false)
    (hf : s.core.fsm = .header) (hh : s.core.head ≤ 1) :
    s.nextFsm = (.transfer, s.build.w - 1, shl1 s.build.w s.core.bits s.tdi) ∧ 1 ≤ shl1 s.build.w s.core.bits s.tdi := by
  have hpos : 1 ≤ shl1 s.build.w s.core.bits s.tdi := (Nat.two_pow_pos _).trans_le (le_shl1_of_counting h hf hh)
  rw [nextFsm_of_header hc hf, if_pos hh, finish_of_ne (by omega)]
  exact ⟨rfl, hpos⟩

/-- A rising edge keeps the invariants: the trigger enters the accumulator at the bottom and moves up with each header bit, so that
it is at the top when the header is complete. -/
theorem risen_counting {s : State} (hw : s.build.wf = true) (h : s.core.Counting s.build) : s.risen.Counting s.build := by
  have hone := Build.one_le_w hw
  obtain ⟨hhead, hbits⟩ := risen_inRange h.1
  have hfsm := risen_fsm s
  have htake : ∀ {f : Fsm} {n m : Nat}, s.nextFsm = (f, n, m) → s.risen.fsm = f ∧ s.risen.head = n ∧ s.risen.bits = m := by
    intro f n m e
    simpa only [e, Prod.mk.injEq] using hfsm
  cases hc : s.core.sig.capture with
  | true =>
    obtain ⟨ef, eh, -⟩ := htake (nextFsm_of_capture hc)
    exact Core.counting_of_idle ef eh hbits
  | false =>
    cases hf : s.core.fsm with
    | idle =>
      cases ht : s.core.sig.shift && s.tdi with
      | false =>
        obtain ⟨ef, eh, -⟩ := htake (nextFsm_of_idle hc hf ht)
        exact Core.counting_of_idle ef (eh.trans (h.idle hf)) hbits
      | true =>
        by_cases h1 : s.build.w = 1
        · obtain ⟨ef, eh, eb⟩ := htake (nextFsm_of_trigger_one h1 hc hf ht)
          exact Core.counting_of_transfer ef (by rw [eh, h1]) eb.ge hbits
        · have hnext := nextFsm_of_trigger hc hf ht
          rw [if_neg h1] at hnext
          obtain ⟨ef, eh, eb⟩ := htake hnext
          refine Core.counting_of_header ef (by omega) ⟨hhead, hbits⟩ (by omega) ?_
          rw [eh, eb, Nat.sub_self, shl1_testBit_zero hone]
    | header =>
      obtain ⟨hw2, hpos, hbit⟩ := h.header hf
      by_cases hl : s.core.head ≤ 1
      · obtain ⟨hnext, hvalue⟩ := nextFsm_of_header_last h hc hf hl
        obtain ⟨ef, eh, eb⟩ := htake hnext
        exact Core.counting_of_transfer ef eh (eb ▸ hvalue) hbits
      · have hnext := nextFsm_of_header hc hf
        rw [if_neg hl] at hnext
        obtain ⟨ef, eh, eb⟩ := htake hnext
        obtain ⟨hrange, -⟩ := h.1
        refine Core.counting_of_header ef hw2 ⟨hhead, hbits⟩ (by omega) ?_
        rw [eh, eb, show s.build.w - 1 - (s.core.head - 1) = s.build.w - 1 - s.core.head + 1 by omega, shl1_testBit_succ, hbit]
        simp
        omega
    | transfer =>
      obtain ⟨-, hh⟩ := h.transfer hf
      have hnext := nextFsm_of_transfer hc hf
      by_cases hl : s.core.bits ≤ 1
      · rw [if_pos hl] at hnext
        obtain ⟨ef, eh, -⟩ := htake hnext
        exact Core.counting_of_idle ef (eh.trans hh) hbits
      · rw [if_neg hl] at hnext
        obtain ⟨ef, eh, eb⟩ := htake hnext
        exact Core.counting_of_transfer ef (eh.trans hh) (by omega) hbits

/-! ## Selected implies held (rule R17) -/

/-- What the detector does at a rising edge: it keeps its registers, deselects, takes the event's value with the hold, or holds. -/
theorem risen_det_cases (s : State) :
    (s.build.detMode = .passthrough ∧ s.risen.det = s.core.det ∧ s.risen.selected = s.core.selected) ∨
    s.risen.selected = false ∨ s.risen.det = .held := by
  cases hm : s.build.detMode with
  | passthrough => exact .inl ⟨rfl, risen_det (edgeDet_passthrough hm)⟩
  | latched =>
    right
    cases ho : DetOp.select s.core.pr.rstn s.core.det (idleEvent s.build s.core) with
    | clear => exact .inl (risen_det (d := s.putDet .wait false) (by rw [edgeDet_latched hm, ho]; rfl)).2
    | wait => exact .inl (risen_det (d := s.putDet .wait false) (by rw [edgeDet_latched hm, ho]; rfl)).2
    | latch => exact .inr (risen_det (d := s.putDet .held s.core.pr.rti1) (by rw [edgeDet_latched hm, ho]; rfl)).1
    | hold => exact .inr (risen_det (d := s.putDet .held s.core.selected) (by rw [edgeDet_latched hm, ho]; rfl)).1

theorem risen_selectedIsHeld {s : State} (h : s.core.SelectedIsHeld) : s.risen.SelectedIsHeld := by
  intro hsel
  obtain ⟨-, hdet, hs⟩ | hs | hd := risen_det_cases s
  · exact hdet.trans (h (hs ▸ hsel))
  · simp [hs] at hsel
  · exact hd

/-! ## Settled machines (rule R67) -/

theorem mem_atEveryInstant_iff {b : Build} {i : Instr} : i ∈ atEveryInstant b ↔
    (i = .detPass ∧ b.detMode = .passthrough) ∨ (i = .detOut ∧ b.detMode = .latched) ∨ i = .clkInv ∨ i = .oeSel ∨
      i = .misoIn ∨ (i = .auxHigh ∧ b.hasAux = true) := by
  cases hm : b.detMode <;> cases ha : b.hasAux <;> simp [atEveryInstant, hm, ha]

theorem State.putSignals_eq_self {s : State} {a b c : Bool} (h : s.core.sig = { sel := a, capture := b, shift := c }) :
    s.putSignals a b c = s := by
  rw [State.putSignals, ← h]

/-- Driving onto the pins what they show already changes nothing. -/
theorem State.withPins_eq_self {s : State} {p : Pins} (h : p = s.core.pins) :
    ({ s with core := { s.core with pins := p } } : State) = s := by
  rw [h]

/-- On a settled bridge every operation that holds at every instant changes nothing. -/
theorem exec_eq_self_of_settled {s : State} {i : Instr} (h : s.core.Settled s.build s.tck) (hi : i ∈ atEveryInstant s.build) :
    exec i s = .next s := by
  obtain ⟨hsig, hclk, hcsn, hclkOe, hmosi, hmiso, haux⟩ := h
  obtain ⟨rfl, hm⟩ | ⟨rfl, hm⟩ | rfl | rfl | rfl | ⟨rfl, ha⟩ := mem_atEveryInstant_iff.1 hi <;>
    refine congrArg Host.Outcome.next ?_
  · exact State.putSignals_eq_self (by simpa only [Core.detSignals, hm] using hsig)
  · exact State.putSignals_eq_self (by simpa only [Core.detSignals, hm, Core.capturing, Core.shifting] using hsig)
  · exact State.withPins_eq_self (by rw [← hclk])
  · exact State.withPins_eq_self (by cases hp : s.core.pins; simp_all)
  · exact State.withPins_eq_self (by rw [← hmiso])
  · exact State.withPins_eq_self (by cases hp : s.core.pins; simp_all)

/-! ## The tagged variant (rule R113) -/

theorem Variant.of_idle_iff {b : Build} {c : Core} : Variant.Of b c .idle ↔ c.fsm = .idle := by
  cases hf : c.fsm <;> simp [Variant.Of, hf]

theorem Variant.of_header_iff {b : Build} {c : Core} {n acc : Nat} : Variant.Of b c (.header n acc) ↔
    c.fsm = .header ∧ n = c.head ∧ c.head ≤ b.w - 1 ∧ acc % 2 ^ (b.w - c.head) = c.bits % 2 ^ (b.w - c.head) := by
  cases hf : c.fsm <;> simp [Variant.Of, hf]

theorem Variant.of_transfer_iff {b : Build} {c : Core} {n : Nat} :
    Variant.Of b c (.transfer n) ↔ c.fsm = .transfer ∧ n = c.bits := by
  cases hf : c.fsm <;> simp [Variant.Of, hf]

/-- The two ways to finish a header agree. -/
theorem Variant.of_finish {b : Build} {c : Core} {v : Nat} (h : (c.fsm, c.head, c.bits) = Machine.finish b v) :
    Variant.Of b c (Variant.finish b v) := by
  by_cases hv : v = 0
  · subst hv
    rw [finish_zero] at h
    simp only [Prod.mk.injEq] at h
    obtain ⟨hf, -, hb⟩ := h
    cases hz : b.zeroHdr with
    | idleDirect => simp [Variant.finish, hz, Variant.of_idle_iff, hf]
    | oneTick => simp [Variant.finish, hz, Variant.of_transfer_iff, hf, hb]
  · rw [finish_of_ne hv] at h
    simp only [Prod.mk.injEq] at h
    obtain ⟨hf, -, hb⟩ := h
    simp [Variant.finish, hv, Variant.of_transfer_iff, hf, hb]

/-- A shift into `W` bits does not see more than the low `W - 1` bits of what it shifts. -/
theorem shl1_congr {w a b k : Nat} (bit : Bool) (h : a % 2 ^ k = b % 2 ^ k) (hk : w ≤ k + 1) : shl1 w a bit = shl1 w b bit := by
  have hlow : 2 * a + bit.toNat ≡ 2 * b + bit.toNat [MOD 2 ^ (k + 1)] := by
    rw [pow_succ']
    exact (Nat.ModEq.mul_left' 2 h).add_right _
  exact hlow.of_dvd (Nat.pow_dvd_pow 2 hk)

/-- The low bits of a shifted number are those of its shifted low bits. -/
theorem shl1_mod_congr {w a b k : Nat} (bit : Bool) (h : a % 2 ^ k = b % 2 ^ k) (hk : k + 1 ≤ w) :
    shl1 w a bit % 2 ^ (k + 1) = shl1 w b bit % 2 ^ (k + 1) := by
  have hlow : ∀ v, shl1 w v bit % 2 ^ (k + 1) = shl1 (k + 1) v bit := fun v => Nat.mod_mod_of_dvd _ (Nat.pow_dvd_pow 2 hk)
  rw [hlow, hlow, shl1_congr bit h le_rfl]

/-- A rising edge takes the registers and the variant to related states. -/
theorem variant_of_risen {s : State} {v : Variant} (hw : s.build.wf = true) (h : Variant.Of s.build s.core v) :
    Variant.Of s.build s.risen (v.next s.build s.core.sig.capture s.core.sig.shift s.tdi) := by
  have hone := Build.one_le_w hw
  have hfsm := risen_fsm s
  cases hc : s.core.sig.capture with
  | true =>
    rw [nextFsm_of_capture hc] at hfsm
    simp only [Prod.mk.injEq] at hfsm
    exact Variant.of_idle_iff.2 hfsm.1
  | false =>
    cases v with
    | idle =>
      have hf := Variant.of_idle_iff.1 h
      cases ht : s.core.sig.shift && s.tdi with
      | false =>
        rw [nextFsm_of_idle hc hf ht] at hfsm
        simp only [Prod.mk.injEq] at hfsm
        simpa [Variant.next, ht] using Variant.of_idle_iff.2 hfsm.1
      | true =>
        rw [nextFsm_of_trigger hc hf ht] at hfsm
        by_cases h1 : s.build.w = 1
        · rw [if_pos h1, h1, shl1_one] at hfsm
          simpa [Variant.next, ht, h1] using Variant.of_finish hfsm
        · rw [if_neg h1] at hfsm
          simp only [Prod.mk.injEq] at hfsm
          obtain ⟨ef, eh, eb⟩ := hfsm
          have hbit : shl1 s.build.w s.core.bits true % 2 = 1 := by
            simpa [Nat.testBit_zero] using shl1_testBit_zero hone s.core.bits true
          have hplace : s.build.w - (s.build.w - 1) = 1 := by omega
          simp [Variant.next, ht, h1, Variant.of_header_iff, ef, eh, eb, hplace, hbit]
    | header n acc =>
      obtain ⟨hf, rfl, hle, hacc⟩ := Variant.of_header_iff.1 h
      rw [nextFsm_of_header hc hf] at hfsm
      by_cases hl : s.core.head ≤ 1
      · rw [if_pos hl, ← shl1_congr s.tdi hacc (by omega)] at hfsm
        simpa [Variant.next, hl] using Variant.of_finish hfsm
      · rw [if_neg hl] at hfsm
        simp only [Prod.mk.injEq] at hfsm
        obtain ⟨ef, eh, eb⟩ := hfsm
        have hplace : s.build.w - (s.core.head - 1) = s.build.w - s.core.head + 1 := by omega
        have hbits := shl1_mod_congr (w := s.build.w) s.tdi hacc (by omega)
        simp [Variant.next, hl, Variant.of_header_iff, ef, eh, eb, hplace, hbits]
        omega
    | transfer n =>
      obtain ⟨hf, rfl⟩ := Variant.of_transfer_iff.1 h
      rw [nextFsm_of_transfer hc hf] at hfsm
      by_cases hl : s.core.bits ≤ 1
      · rw [if_pos hl] at hfsm
        simp only [Prod.mk.injEq] at hfsm
        simpa [Variant.next, hl] using Variant.of_idle_iff.2 hfsm.1
      · rw [if_neg hl] at hfsm
        simp only [Prod.mk.injEq] at hfsm
        obtain ⟨ef, -, eb⟩ := hfsm
        simp [Variant.next, hl, Variant.of_transfer_iff, ef, eb]

/-- The relation reads the three registers of the state machine. -/
theorem variant_of_congr {b : Build} {c d : Core} {v : Variant} (h : c.SameDomainA d) (hv : Variant.Of b c v) :
    Variant.Of b d v := by
  obtain ⟨hf, hh, hb, -⟩ := h
  unfold Variant.Of at hv ⊢
  rwa [hf, hh, hb]

/-! ## The statements -/

/-- Settles O30: a rising edge keeps the invariants, a reset ends in IDLE, and each decrement is selected at a counter of at least
two. -/
theorem counterInvariants : Obligations.CounterInvariants := by
  refine ⟨fun s t hw h hs => ?step, fun s t l rest hb hr hc hs => ?reset, fun s hr hd => ?head, fun s hr hd => ?bits, shl1_lt⟩
  case step =>
    obtain ⟨hbuild, -⟩ := step_build hs
    have hinv := step_everywhere (Q := fun b c => b.wf = true → c.Counting b) (fun s h hw => risen_counting hw (h hw))
      (fun _ _ _ _ hd h hw => (h hw).congr hd) (h.mono fun _ hc _ => hc) hs
    exact hinv.mono fun _ hc => hc (hbuild ▸ hw)
  case reset =>
    have hfsm := (step_rise_fsm hb hs).trans (nextFsm_of_capture hc)
    simp only [Prod.mk.injEq] at hfsm
    obtain ⟨ef, eh, eb⟩ := hfsm
    obtain ⟨hbuild, -⟩ := step_build hs
    exact Core.counting_of_idle ef (hbuild ▸ eh) (hbuild ▸ eb ▸ hr.2)
  case head =>
    obtain ⟨-, -, hh⟩ := (decode_aOp_iff s .shift).1 hd
    obtain ⟨hle, -⟩ := hr
    omega
  case bits =>
    obtain ⟨-, -, hn⟩ := (decode_aOp_iff s .step).1 hd
    obtain ⟨-, hle⟩ := hr
    omega

/-- Settles O27: the edge by the relation's own step, the rest because nothing else writes the three registers. -/
theorem taggedVariantSimulates : Obligations.TaggedVariantSimulates := by
  refine ⟨fun s t l rest v hw hb hs h => ?rise, fun s t l rest v hb hs h => ?still, fun b c v h => ?transfer,
    fun b bits m d => Variant.of_idle_iff.2 rfl⟩
  case rise =>
    rw [step_rise hb] at hs
    cases hs
    exact variant_of_risen hw h
  case still =>
    have hedge : s.env = .levels l :: rest ∧ ¬ (s.tck = false ∧ l.tck = true) := by
      obtain ⟨he, hhigh, hlow⟩ | ⟨he, hsame⟩ := hb
      · exact ⟨he, by simp [hhigh]⟩
      · exact ⟨he, by simp [hsame]⟩
    obtain ⟨hcore, -⟩ := step_keeps_domainA hedge.1 hedge.2 hs
    exact variant_of_congr hcore h
  case transfer =>
    cases v with
    | idle => simp [Variant.of_idle_iff.1 h]
    | header n acc => simp [(Variant.of_header_iff.1 h).1]
    | transfer n => simp [(Variant.of_transfer_iff.1 h).1]

/-- Settles O28: a change of levels settles everything, and settled operations write what is there. -/
theorem combinationalAssignmentsHold : Obligations.CombinationalAssignmentsHold := by
  refine ⟨fun s t h hs => ?_, fun s i h hi => ⟨exec_eq_self_of_settled h.1 hi, fun c hc => ?_⟩⟩
  · exact step_preserves (P := State.Settled) (fun u l _ => after_settled u l) (fun _ _ h => h) (fun _ _ h => h) h hs
  · exact exec_eq_self_of_settled (s := s.focus c) (h.2 c hc) hi

/-- Settles O29: with every input low and `tck` low the pins of power-up are the settled ones. -/
theorem combinationalAssignmentsHoldAtPowerUp : Obligations.CombinationalAssignmentsHoldAtPowerUp := by
  have settled : ∀ (b : Build) (bits : Nat) (m d : Bool), (State.powerUp b bits m d).Settled := by
    intro b bits m d
    refine ⟨?_, fun c hc => by simp [State.powerUp] at hc⟩
    cases hm : b.detMode <;> simp +contextual [Core.Settled, Core.detSignals, State.powerUp, Core.powerUp, hm]
  exact ⟨settled, settled ..⟩

/-- Settles O31: the machine starts in IDLE with `head = W-1`. -/
theorem counterInvariantsAtPowerUp : Obligations.CounterInvariantsAtPowerUp := by
  have counting : ∀ (b : Build) (bits : Nat) (m d : Bool), bits ≤ 2 ^ b.w - 1 → (State.powerUp b bits m d).Counting :=
    fun b bits m d h => ⟨Core.counting_of_idle rfl rfl h, fun c hc => by simp [State.powerUp] at hc⟩
  exact ⟨counting, counting _ _ _ _ (Nat.zero_le _)⟩

/-- Settles O32: a rising edge keeps the ranges, and `W` values fit the `clog2 W` bits of the counter. -/
theorem registerRanges : Obligations.RegisterRanges := by
  refine ⟨fun s t h hs => ?_, fun b hb => ?_⟩
  · refine step_everywhere (Q := fun b c => c.InRange b) (fun _ h => risen_inRange h) (fun b c d v hd h => ?_) h hs
    obtain ⟨-, hh, hn, -⟩ := hd
    unfold Core.InRange at h ⊢
    rwa [hh, hn]
  · have hw := Build.one_le_w hb
    calc b.w - 1
      _ < b.w := by omega
      _ ≤ 2 ^ Nat.clog 2 b.w := Nat.le_pow_clog one_lt_two _
      _ ≤ 2 ^ b.headWidth := Nat.pow_le_pow_right two_pos (le_max_right ..)

/-- Settles O33: a rising edge keeps the invariant, and DET.CLEAR deselects. -/
theorem selectedImpliesHeld : Obligations.SelectedImpliesHeld := by
  refine ⟨fun s t h hs => ?_, fun s t l rest hm hb hr hs hsel => ?_⟩
  · refine step_everywhere (Q := fun _ c => c.SelectedIsHeld) (fun _ h => risen_selectedIsHeld h) (fun b c d v hd h hsel => ?_) h hs
    obtain ⟨-, -, -, -, -, -, hdet, hs⟩ := hd
    exact hdet.trans (h (hs ▸ hsel))
  · obtain ⟨-, hclear, -⟩ := step_rise_detector hm hb hs ((decode_detClear_iff s).2 hr) rfl
    exact absurd (hclear.symm.trans hsel) (by simp)

/-- Settles O34: neither a step nor an operation writes them. -/
theorem buildIsImmutable : Obligations.BuildIsImmutable := ⟨fun _ _ => step_build, fun _ _ _ => exec_build⟩

/-- Settles O35, by the definition of the power-up state. -/
theorem powerUpState : Obligations.PowerUpState :=
  ⟨fun _ _ _ _ => ⟨rfl, rfl, rfl, rfl, rfl, rfl, rfl, rfl, fun _ => ⟨rfl, rfl, rfl⟩⟩, 0, false, false, rfl⟩

end Sys2Proof.Machine
end

section
/-! PROOF. Two runs side by side (rules R27, R178, decision D8): what a change of levels reads, and so what no run can tell apart. -/

namespace Sys2Proof.Machine

/-! ## One bridge after a rising edge, in one equation -/

/-- The detector's registers after a rising edge (rules R67, R83 to R85, R87). -/
def State.nextDet (s : State) : Det × Bool :=
  match s.build.detMode with
  | .passthrough => (s.core.det, s.core.selected)
  | .latched =>
    match DetOp.select s.core.pr.rstn s.core.det (idleEvent s.build s.core) with
    | .clear => (.wait, false)
    | .wait => (.wait, false)
    | .latch => (.held, s.core.pr.rti1)
    | .hold => (.held, s.core.selected)

theorem risen_nextDet (s : State) : (s.risen.det, s.risen.selected) = s.nextDet := by
  have hedge : edgeDet s = .next (s.putDet s.nextDet.1 s.nextDet.2) := by
    cases hm : s.build.detMode with
    | passthrough => simp [edgeDet_passthrough hm, State.nextDet, hm, State.putDet]
    | latched =>
      rw [edgeDet_latched hm]
      cases ho : DetOp.select s.core.pr.rstn s.core.det (idleEvent s.build s.core) <;> simp only [State.nextDet, hm, ho] <;> rfl
  obtain ⟨hdet, hsel⟩ := risen_det hedge
  exact Prod.ext hdet hsel

/-- Every register after a rising edge; the inputs, the signals and the pins are those before it. -/
theorem risen_eq (s : State) : s.risen = { s.core with
    fsm := s.nextFsm.1, head := s.nextFsm.2.1, bits := s.nextFsm.2.2, det := s.nextDet.1, selected := s.nextDet.2,
    mosiQ := s.tdi, csnQ := decide (s.core.fsm ≠ .transfer) } := by
  have hfsm := risen_fsm s
  have hdet := risen_nextDet s
  obtain ⟨-, d, a, -, -, e⟩ := riseOne_eq s
  rw [← hfsm, ← hdet]
  rw [e]

/-! ## The step as a function -/

/-- The state after one tick. -/
def State.tick (s : State) (t : TickLine) : State := (t.changes s.miso).foldl State.after s

/-- The state after the tick that shifts in one bit of a stream item. -/
def State.itemBit (s : State) (b : Bool) : State :=
  ({ s with misoFeed := s.misoFeed.tail } : State).tick { tdi := b, miso := s.misoFeed.headD false }

/-- The state after one step. -/
def State.stepped (s : State) : State :=
  match s.env with
  | [] => s
  | .levels l :: rest => ({ s with env := rest } : State).after l
  | .nop :: rest => ({ s with env := rest } : State).itemBit false
  | .xfer h body :: rest => (frameBits s.build.w h body).foldl State.itemBit { s with env := rest }

theorem runTick_tick (t : TickLine) (s : State) : runTick t s = .next (s.tick t) := runTick_eq t s

theorem runTicks_eq (ts : List TickLine) (s : State) : runTicks ts s = .next (ts.foldl State.tick s) := by
  induction ts generalizing s with
  | nil => rfl
  | cons t ts ih => rw [runTicks, runTick_tick, andThen_next, ih, List.foldl_cons]

theorem itemTick_eq (b : Bool) (s : State) : itemTick b s = .next (s.itemBit b) := runTick_tick ..

theorem itemTicks_eq (bits : List Bool) (s : State) : itemTicks bits s = .next (bits.foldl State.itemBit s) := by
  induction bits generalizing s with
  | nil => rfl
  | cons b bs ih => rw [itemTicks, itemTick_eq, andThen_next, ih, List.foldl_cons]

theorem step_eq (s : State) : step s = .next s.stepped := by
  rcases step_cases s with ⟨h, e⟩ | ⟨l, rest, h, e⟩ | ⟨rest, h, e⟩ | ⟨k, body, rest, h, e⟩ <;>
    rw [e] <;> simp only [State.stepped, h]
  · exact itemTick_eq ..
  · exact itemTicks_eq ..

theorem run_succ (n : Nat) (s : State) :
    Host.Core.run Sys2Proof.core (n + 1) s = Host.Core.run Sys2Proof.core n s.stepped :=
  run_succ_of_step (M := Sys2Proof.core) (step_eq s)

/-! ## Two machines, step by step -/

/-- What two lists of changes keep of two machines, when each change keeps it. -/
theorem foldl_related {α : Type} {R : State → State → Prop} {f : State → α → State}
    (hf : ∀ s s' a, R s s' → R (f s a) (f s' a)) (as : List α) {s s' : State} (h : R s s') : R (as.foldl f s) (as.foldl f s') := by
  induction as generalizing s s' with
  | nil => exact h
  | cons a as ih => exact ih (hf s s' a h)

section Related

variable {R : State → State → Prop} (ha : ∀ s s' l, R s s' → R (s.after l) (s'.after l))
  (hf : ∀ s s' f, R s s' → R ({ s with misoFeed := f } : State) ({ s' with misoFeed := f } : State))
  (hin : ∀ s s', R s s' → s.miso = s'.miso ∧ s.misoFeed = s'.misoFeed)

include ha in
theorem tick_related {s s' : State} (hmiso : s.miso = s'.miso) (h : R s s') (t : TickLine) : R (s.tick t) (s'.tick t) := by
  unfold State.tick
  rw [hmiso]
  exact foldl_related ha _ h

include ha hf hin in
theorem itemBit_related {s s' : State} (h : R s s') (b : Bool) : R (s.itemBit b) (s'.itemBit b) := by
  obtain ⟨hmiso, hfeed⟩ := hin s s' h
  unfold State.itemBit
  rw [hfeed]
  have hfed := hf s s' s'.misoFeed.tail h
  exact tick_related ha (by exact hmiso) hfed _

include ha hf hin in
/-- What two machines keep over every change of levels, they keep over every step, when they agree on what the environment does and
on the length of a header. -/
theorem stepped_related (he : ∀ s s' e, R s s' → R ({ s with env := e } : State) ({ s' with env := e } : State)) {s s' : State}
    (henv : s.env = s'.env) (hw : s.build.w = s'.build.w) (h : R s s') : R s.stepped s'.stepped := by
  have hitem : ∀ u u' b, R u u' → R (u.itemBit b) (u'.itemBit b) := fun u u' b hu => itemBit_related ha hf hin hu b
  unfold State.stepped
  rw [← henv, ← hw]
  split
  · exact h
  · exact ha _ _ _ (he s s' _ h)
  · exact hitem _ _ _ (he s s' _ h)
  · exact foldl_related hitem _ (he s s' _ h)

end Related

/-! ## What the host sees (rule R27) -/

/-- What `tdo` and the host's samples depend on. -/
structure SameHostView (s s' : State) : Prop where
  env : s.env = s'.env
  misoFeed : s.misoFeed = s'.misoFeed
  tck : s.tck = s'.tck
  miso : s.miso = s'.miso
  tdoQ : s.core.tdoQ = s'.core.tdoQ
  hostLog : s.hostLog = s'.hostLog

/-- `tdo_q` after a change of levels. -/
theorem after_tdoQ (s : State) (l : Levels) :
    (s.after l).core.tdoQ = if s.tck = true ∧ l.tck = false then s.miso else s.core.tdoQ := by
  have hcore : (s.after l).core.tdoQ = (s.clockedOne l.tck s.core).tdoQ := by rw [after_core]; rfl
  rw [hcore]
  split
  · next h => exact clockedOne_tdoQ_of_fall h.1 h.2 s.core
  · next h => exact clockedOne_tdoQ_of_not_fall h s.core

/-- What the host has sampled after a change of levels. -/
theorem after_hostLog (s : State) (l : Levels) :
    (s.after l).hostLog = if s.tck = false ∧ l.tck = true then s.core.tdoQ :: s.hostLog else s.hostLog := by
  cases ht : s.tck <;> cases hl : l.tck <;> simp [State.after, State.clocked, State.drive, ht, hl]

/-- What the SPI device was shown after a change of levels. -/
theorem after_spiLog (s : State) (l : Levels) :
    (s.after l).spiLog = if s.tck = true ∧ l.tck = false then s.core.spiSample :: s.spiLog else s.spiLog := by
  cases ht : s.tck <;> cases hl : l.tck <;> simp [State.after, State.clocked, State.drive, ht, hl]

theorem SameHostView.after {s s' : State} (h : SameHostView s s') (l : Levels) : SameHostView (s.after l) (s'.after l) where
  env := by rw [after_env, after_env, h.env]
  misoFeed := by rw [after_misoFeed, after_misoFeed, h.misoFeed]
  tck := by rw [after_tck, after_tck]
  miso := by rw [after_miso, after_miso]
  tdoQ := by rw [after_tdoQ, after_tdoQ, h.tck, h.miso, h.tdoQ]
  hostLog := by rw [after_hostLog, after_hostLog, h.tck, h.tdoQ, h.hostLog]

theorem SameHostView.stepped {s s' : State} (h : SameHostView s s') (hw : s.build.w = s'.build.w) :
    SameHostView s.stepped s'.stepped :=
  stepped_related (fun _ _ l h => h.after l) (fun _ _ _ h => { h with misoFeed := rfl }) (fun _ _ h => ⟨h.miso, h.misoFeed⟩)
    (fun _ _ _ h => { h with env := rfl }) h.env hw h

/-! ## Peers (rule R178) -/

/-- The machine with other bridges on its bus. -/
def State.withPeers (s : State) (cs : List Core) : State := { s with peers := cs }

/-- A change of levels in the bridge in focus does not read the others. -/
theorem after_withPeers (s : State) (cs : List Core) (l : Levels) :
    ∃ ds, (s.withPeers cs).after l = (s.after l).withPeers ds := by
  have hrisen : (s.withPeers cs).risen = s.risen := risen_congr rfl rfl rfl
  cases ht : s.tck <;> cases hl : l.tck
  · rw [after_still (hl.trans ht.symm), after_still (s := s.withPeers cs) (hl.trans ht.symm)]
    exact ⟨_, rfl⟩
  · rw [after_rise ht hl, after_rise (s := s.withPeers cs) ht hl, hrisen]
    exact ⟨_, rfl⟩
  · rw [after_fall ht hl, after_fall (s := s.withPeers cs) ht hl]
    exact ⟨_, rfl⟩
  · rw [after_still (hl.trans ht.symm), after_still (s := s.withPeers cs) (hl.trans ht.symm)]
    exact ⟨_, rfl⟩

theorem stepped_withPeers (s : State) (cs : List Core) : ∃ ds, (s.withPeers cs).stepped = s.stepped.withPeers ds := by
  refine stepped_related (R := fun u u' => ∃ ds, u' = u.withPeers ds) ?_ ?_ ?_ ?_ rfl rfl ⟨cs, rfl⟩
  · rintro u _ l ⟨ds, rfl⟩
    exact after_withPeers u ds l
  · rintro u _ f ⟨ds, rfl⟩
    exact ⟨ds, rfl⟩
  · rintro u _ ⟨ds, rfl⟩
    exact ⟨rfl, rfl⟩
  · rintro u _ e ⟨ds, rfl⟩
    exact ⟨ds, rfl⟩

/-! ## The two builds of `ZERO_HDR` (decision D8) -/

/-- The machine in the build with the given `ZERO_HDR`. -/
def State.withZeroHdr (s : State) (z : ZeroHdr) : State := { s with build := { s.build with zeroHdr := z } }

/-- Inside the invariants no header is zero, and so a rising edge does not read `ZERO_HDR`. -/
theorem nextFsm_withZeroHdr {s : State} (h : s.core.Counting s.build) (z : ZeroHdr) :
    (s.withZeroHdr z).nextFsm = s.nextFsm := by
  have h' : (s.withZeroHdr z).core.Counting (s.withZeroHdr z).build := h
  cases hc : s.core.sig.capture with
  | true => exact (nextFsm_of_capture (s := s.withZeroHdr z) hc).trans (nextFsm_of_capture hc).symm
  | false =>
    cases hf : s.core.fsm with
    | idle =>
      cases ht : s.core.sig.shift && s.tdi with
      | false => exact (nextFsm_of_idle (s := s.withZeroHdr z) hc hf ht).trans (nextFsm_of_idle hc hf ht).symm
      | true =>
        by_cases h1 : s.build.w = 1
        · exact (nextFsm_of_trigger_one (s := s.withZeroHdr z) h1 hc hf ht).trans (nextFsm_of_trigger_one h1 hc hf ht).symm
        · rw [nextFsm_of_trigger hc hf ht, nextFsm_of_trigger (s := s.withZeroHdr z) hc hf ht, if_neg h1,
            if_neg (show ¬ (s.withZeroHdr z).build.w = 1 from h1)]
          rfl
    | header =>
      by_cases hl : s.core.head ≤ 1
      · exact (nextFsm_of_header_last h' hc hf hl).1.trans (nextFsm_of_header_last h hc hf hl).1.symm
      · rw [nextFsm_of_header hc hf, nextFsm_of_header (s := s.withZeroHdr z) hc hf, if_neg hl,
          if_neg (show ¬ (s.withZeroHdr z).core.head ≤ 1 from hl)]
        rfl
    | transfer => exact (nextFsm_of_transfer (s := s.withZeroHdr z) hc hf).trans (nextFsm_of_transfer hc hf).symm

theorem risen_withZeroHdr {s : State} (h : s.core.Counting s.build) (z : ZeroHdr) :
    (s.withZeroHdr z).risen = s.risen := by
  rw [risen_eq, risen_eq, nextFsm_withZeroHdr h]
  rfl

theorem after_withZeroHdr {s : State} (h : s.Counting) (z : ZeroHdr) (l : Levels) :
    (s.withZeroHdr z).after l = (s.after l).withZeroHdr z := by
  obtain ⟨hcore, hpeers⟩ := h
  have hrisen := risen_withZeroHdr hcore z
  have hrisens : s.peers.map (fun c => ((s.withZeroHdr z).focus c).risen) = s.peers.map (fun c => (s.focus c).risen) :=
    List.map_congr_left fun c hc => risen_withZeroHdr (s := s.focus c) (hpeers c hc) z
  cases ht : s.tck <;> cases hl : l.tck
  · rw [after_still (hl.trans ht.symm), after_still (s := s.withZeroHdr z) (hl.trans ht.symm)]
    rfl
  · rw [after_rise ht hl, after_rise (s := s.withZeroHdr z) ht hl, hrisen, ← hrisens]
    rfl
  · rw [after_fall ht hl, after_fall (s := s.withZeroHdr z) ht hl]
    rfl
  · rw [after_still (hl.trans ht.symm), after_still (s := s.withZeroHdr z) (hl.trans ht.symm)]
    rfl

/-- A change of levels keeps the invariants of the counters. -/
theorem after_counting {s : State} (hw : s.build.wf = true) (h : s.Counting) (l : Levels) : (s.after l).Counting := by
  unfold State.Counting
  rw [after_build]
  refine after_everywhere l (fun c _ hc => risen_counting (s := s.focus c) hw hc) (fun c d v hd hc => ?_) h
  exact Core.Counting.congr hd hc

/-! ## The statements -/

/-- Settles O51: what the host sees is kept step by step, and so over the run. -/
theorem readBackCarriesNoBlockState : Obligations.ReadBackCarriesNoBlockState := by
  intro n
  induction n with
  | zero =>
    intro s s' t t' _ _ _ _ _ htdo hlog hs hs'
    cases hs; cases hs'
    exact ⟨htdo, hlog⟩
  | succ n ih =>
    intro s s' t t' hw henv hfeed htck hmiso htdo hlog hs hs'
    rw [run_succ] at hs hs'
    have h := SameHostView.stepped ⟨henv, hfeed, htck, hmiso, htdo, hlog⟩ hw
    have hbuild := (step_build (step_eq s)).1
    have hbuild' := (step_build (step_eq s')).1
    exact ih _ _ t t' (by rw [hbuild, hbuild', hw]) h.env h.misoFeed h.tck h.miso h.tdoQ h.hostLog hs hs'

/-- Settles O52: with other peers the step ends in the same state but for the peers. -/
theorem otherInstancesDoNotInterfere : Obligations.OtherInstancesDoNotInterfere := by
  intro s t t' cs hs hs'
  obtain ⟨ds, hds⟩ := stepped_withPeers s cs
  rw [step_eq] at hs hs'
  cases hs
  cases hs'
  rw [show ({ s with peers := cs } : State).stepped = s.stepped.withPeers ds from hds]
  exact ⟨rfl, rfl, rfl⟩

/-- Settles O53: inside the invariants, which every change of levels keeps, no edge reads `ZERO_HDR`. -/
theorem zeroHeaderChoiceIsUnobservable : Obligations.ZeroHeaderChoiceIsUnobservable := by
  intro s t t' z hw h hs hs'
  have hrel := stepped_related (R := fun u u' => u.build.wf = true ∧ u.Counting ∧ u' = u.withZeroHdr z)
    (s := s) (s' := s.withZeroHdr z) ?_ ?_ ?_ ?_ rfl rfl ⟨hw, h, rfl⟩
  · rw [step_eq] at hs hs'
    cases hs
    cases hs'
    exact hrel.2.2
  · rintro u _ l ⟨hwu, hu, rfl⟩
    exact ⟨by rwa [after_build], after_counting hwu hu l, after_withZeroHdr hu z l⟩
  · rintro u _ f ⟨hwu, hu, rfl⟩
    exact ⟨hwu, hu, rfl⟩
  · rintro u _ ⟨-, -, rfl⟩
    exact ⟨rfl, rfl⟩
  · rintro u _ e ⟨hwu, hu, rfl⟩
    exact ⟨hwu, hu, rfl⟩

end Sys2Proof.Machine
end

section
/-! PROOF. One change of input levels (rules R86, R87, R100, R130 to R137, R156, R178, R180, R191, R192): what each kind of edge leaves
in every bridge, and the levels of pins and nets. -/

namespace Sys2Proof

open Machine

/-- DET.WAIT waits for the event. -/
theorem DetOp.select_eq_wait {rstn : Bool} {dt : Det} {event : Bool} :
    DetOp.select rstn dt event = .wait ↔ rstn = true ∧ dt = .wait ∧ event = false := by
  cases rstn with
  | false => simp [DetOp.select]
  | true => cases dt <;> cases event <;> simp [DetOp.select]

end Sys2Proof

namespace Sys2Proof.Machine

theorem decode_detWait_iff (s : State) : decode s.build (.edgeDet s.tWord) = .ok .detWait ↔
    s.core.pr.rstn = true ∧ s.core.det = .wait ∧ idleEvent s.build s.core = false :=
  (decode_tWord_iff s .wait).trans DetOp.select_eq_wait

/-! ## The edge in a change of levels, in one bridge -/

theorem clockedOne_of_rise {s : State} {tck : Bool} (hs : s.tck = false) (ht : tck = true) (c : Core) :
    s.clockedOne tck c = (s.focus c).risen := if_pos ⟨hs, ht⟩

theorem clockedOne_of_fall {s : State} {tck : Bool} (hs : s.tck = true) (ht : tck = false) (c : Core) :
    s.clockedOne tck c = { c with tdoQ := s.miso } := by
  simp [State.clockedOne, hs, ht]

theorem clockedOne_of_still {s : State} {tck : Bool} (h : tck = s.tck) (c : Core) : s.clockedOne tck c = c := by
  cases ht : s.tck <;> simp [State.clockedOne, h, ht]

/-- No edge drives a pin: the pins follow when everything settles. -/
theorem clockedOne_pins (s : State) (tck : Bool) (c : Core) : (s.clockedOne tck c).pins = c.pins := by
  unfold State.clockedOne
  split
  · rw [risen_eq]
    rfl
  · split <;> rfl

/-- Without a rising edge the detector keeps its registers. -/
theorem clockedOne_det {s : State} {tck : Bool} (h : ¬ (s.tck = false ∧ tck = true)) (c : Core) :
    (s.clockedOne tck c).det = c.det ∧ (s.clockedOne tck c).selected = c.selected := by
  rw [State.clockedOne, if_neg h]
  split <;> exact ⟨rfl, rfl⟩

/-! ## The step at a rising edge -/

/-- What a rising edge leaves is what the decoded operations and the unconditional ones write. -/
theorem risenFrom_risen (s : State) : RisenFrom s s.risen := by
  obtain ⟨-, d, a, hd, ha, e⟩ := riseOne_eq s
  rw [edgeA_eq] at ha
  refine ⟨⟨_, a, decode_dWord s, (exec_aOp ..).trans ha, ?_⟩, ⟨_, rfl, (risen_pinRegisters s).1⟩, ⟨_, rfl, (risen_pinRegisters s).2⟩,
    fun hm => ⟨_, d, decode_tWord s, ?_, risen_det hd⟩, fun hm => risen_det (edgeDet_passthrough hm), ?_⟩
  · rw [e]
    exact ⟨rfl, rfl, rfl⟩
  · rw [exec_detOp, ← edgeDet_latched hm, hd]
  · rw [e]

theorem step_rise_eachTo {s t : State} {l : Levels} {rest : List Stim} (hb : BeforeRise s l rest) (hs : step s = .next t) :
    s.EachTo t fun c d => RisenFrom (s.focus c) d := by
  obtain ⟨he, hlow, hhigh⟩ := hb
  refine step_eachTo he hs (fun c => ?_) fun _ _ _ _ h => h
  rw [clockedOne_of_rise hlow hhigh]
  exact risenFrom_risen _

theorem step_rise_det {s t : State} {l : Levels} {rest : List Stim} (hb : BeforeRise s l rest) (hs : step s = .next t) :
    (t.core.det, t.core.selected) = s.nextDet := by
  rw [step_rise hb] at hs
  cases hs
  exact risen_nextDet s

/-- Both pin registers of every bridge take their updates at a rising edge. -/
theorem step_rise_eachTo_pinRegisters {s t : State} {l : Levels} {rest : List Stim} (hb : BeforeRise s l rest)
    (hs : step s = .next t) : s.EachTo t fun c d => d.mosiQ = s.tdi ∧ d.csnQ = decide (c.fsm ≠ .transfer) := by
  obtain ⟨he, hlow, hhigh⟩ := hb
  refine step_eachTo he hs (fun c => ?_) fun _ _ _ _ h => h
  rw [clockedOne_of_rise hlow hhigh]
  exact risen_pinRegisters (s.focus c)

/-! ## What a settled bridge drives -/

/-- A settled LATCHED bridge drives DET.OUT's equations (rule R86). -/
theorem Core.Settled.sig_latched {b : Build} {tck : Bool} {c : Core} (h : c.Settled b tck) (hm : b.detMode = .latched) :
    c.sig.sel = c.selected ∧ c.sig.capture = (c.selected && (c.pr.ce && !c.pr.shift)) ∧
      c.sig.shift = (c.selected && c.pr.shift) ∧ (c.sig.capture && c.sig.shift) = false := by
  obtain ⟨hsig, -⟩ := h
  simp only [Core.detSignals, hm] at hsig
  rw [hsig]
  exact ⟨rfl, rfl, rfl, by cases c.pr.shift <;> simp⟩

/-- A settled bridge that is not selected leaves the three shared pins alone (rule R134). -/
theorem Core.Settled.pins_z {b : Build} {tck : Bool} {c : Core} (h : c.Settled b tck) (hsel : c.sig.sel = false) :
    c.pinCsn = .z ∧ c.pinClk = .z ∧ c.pinMosi = .z := by
  obtain ⟨hcsn, hclk, hmosi, -, -⟩ := h.enables
  simp [Core.pinCsn, Core.pinClk, Core.pinMosi, hcsn, hclk, hmosi, hsel]

/-- Both auxiliary lines of a settled bridge are high in a build that has them (rule R136). -/
theorem Core.Settled.aux_hi {b : Build} {tck : Bool} {c : Core} (h : c.Settled b tck) (ha : b.hasAux = true) :
    c.pinWpn = .hi ∧ c.pinHoldn = .hi := by
  obtain ⟨-, -, -, -, -, -, haux⟩ := h
  obtain ⟨hwp, hwpOe, hhold, hholdOe⟩ := haux ha
  simp [Core.pinWpn, Core.pinHoldn, hwp, hwpOe, hhold, hholdOe, Level.ofBool]

/-- In a build without them settling does not drive these lines. -/
theorem settledIn_aux {b : Build} (ha : b.hasAux = false) (tck : Bool) (c : Core) :
    (c.settledIn b tck).pinWpn = c.pinWpn ∧ (c.settledIn b tck).pinHoldn = c.pinHoldn := by
  simp [Core.settledIn, Core.pinWpn, Core.pinHoldn, ha]

/-! ## The shared nets (rules R137, R178) -/

theorem netLevel_of_none {free : Level} {ds : List (Bool × Bool)} (h : ∀ d ∈ ds, d.1 = false) : netLevel free ds = .z := by
  have hnone : ds.filter (fun d => d.1) = [] := List.filter_eq_nil_iff.2 fun d hd => by simp [h d hd]
  rw [netLevel, hnone]

theorem netLevel_of_one {free : Level} {ds es : List (Bool × Bool)} {d : Bool × Bool} (hd : d.1 = true)
    (h : ∀ e ∈ ds ++ es, e.1 = false) : netLevel free (ds ++ d :: es) = Level.ofBool d.2 := by
  have hds : ds.filter (fun d => d.1) = [] := List.filter_eq_nil_iff.2 fun e he => by simp [h e (by simp [he])]
  have hes : es.filter (fun d => d.1) = [] := List.filter_eq_nil_iff.2 fun e he => by simp [h e (by simp [he])]
  have hone : (ds ++ d :: es).filter (fun d => d.1) = [d] := by simp [hd, hds, hes]
  rw [netLevel, hone]

theorem netLevel_of_two {free : Level} {ds es fs : List (Bool × Bool)} {d e : Bool × Bool} (hd : d.1 = true) (he : e.1 = true) :
    netLevel free (ds ++ d :: (es ++ e :: fs)) = free := by
  have hlen : 2 ≤ ((ds ++ d :: (es ++ e :: fs)).filter (fun d => d.1)).length := by
    simp [hd, he]
    omega
  unfold netLevel
  split
  · next h => simp [h] at hlen
  · next h => simp [h] at hlen
  · rfl

/-- The enabled drivers of a net are those of the bridges that enable it. -/
theorem filter_driver (p : BusPin) (cs : List Core) :
    (cs.map (Core.driver p)).filter (fun d => d.1) = (cs.filter fun c => (c.driver p).1).map (Core.driver p) :=
  List.filter_map ..

/-- A settled bridge enables its three drivers together. -/
theorem Core.Settled.driver_enable {b : Build} {tck : Bool} {c : Core} (h : c.Settled b tck) (p : BusPin) :
    (c.driver p).1 = c.pins.csnOe := by
  obtain ⟨hcsn, hclk, hmosi, -, -⟩ := h.enables
  cases p with
  | csn => rfl
  | clk => exact hclk.trans hcsn.symm
  | mosi => exact hmosi.trans hcsn.symm

/-! ## The statements -/

/-- Settles O7: selection by the fields of the dispatch word, and without `IDLE_EVT` the event is the value latched. -/
theorem detectorWaitAndIdleEvent : Obligations.DetectorWaitAndIdleEvent := by
  refine ⟨fun _ => rfl, decode_detWait_iff, decode_detLatch_iff, fun s t hi hd hx => ?_⟩
  obtain ⟨-, -, hevent⟩ := (decode_detLatch_iff s).1 hd
  cases hx
  exact (idleEvent_rti1 hi s.core).symm.trans hevent

/-- Settles O9: after a change of levels every bridge has settled. -/
theorem latchedOutputs : Obligations.LatchedOutputs := by
  refine ⟨fun _ => rfl, fun s t l rest hm he hs => ?_⟩
  obtain ⟨hbuild, hsettled⟩ := step_levels_settled he hs
  obtain ⟨-, -, -, -, hpr, -⟩ := step_takesLevels he hs
  exact ⟨hpr, hsettled.mono fun _ h => h.sig_latched (hbuild ▸ hm)⟩

/-- Settles O10: the two registers belong to the rising edge, and no other change of levels reaches Domain A. -/
theorem mosiAndChipSelectRegisters : Obligations.MosiAndChipSelectRegisters :=
  ⟨fun _ => rfl, fun _ => rfl, fun _ _ _ _ => step_rise_eachTo_pinRegisters,
    fun _ _ _ _ he hr hs => (step_keeps_domainA he hr hs).mono fun _ _ ⟨_, _, _, hcsn, hmosi⟩ => ⟨hmosi, hcsn⟩⟩

/-- Settles O13: a settled bridge drives both lines in a build that has them; otherwise neither an edge nor settling drives them. -/
theorem auxiliaryOutputs : Obligations.AuxiliaryOutputs := by
  refine ⟨fun _ => rfl, fun s t l rest ha he hs => ?_, fun s t l rest ha he hs => ?_⟩
  · obtain ⟨hbuild, hsettled⟩ := step_levels_settled he hs
    exact hsettled.mono fun _ h => h.aux_hi (hbuild ▸ ha)
  · refine step_eachTo he hs (fun c => ?_) fun c d j p ⟨hwp, hhold⟩ => ?_
    · simp [Core.pinWpn, Core.pinHoldn, clockedOne_pins]
    · obtain ⟨hwp', hhold'⟩ := settledIn_aux ha l.tck (d.drive j p)
      exact ⟨hwp'.trans hwp, hhold'.trans hhold⟩

/-- Settles O16: the word's fields by the concatenation that makes it, the rows by their disjointness, and the execution by the steps
at the two edges and by settling. -/
theorem detectorDispatch : Obligations.DetectorDispatch := by
  refine ⟨fun s hi => ?fields, rfl, fun w => ?rows, rfl, rfl, fun b hm ha => ?_, fun b hm ha => ?_, fun b hm ha => ?_,
    fun b hm ha => ?_, fun s t l rest hb hs => (step_rise_eachTo hb hs).1, fun s t l rest hb hs => (step_fall_tdoQ hb hs).1,
    fun s t i l rest he hs hi => exec_eq_self_of_settled (step_levels_settled he hs).2.1 hi⟩
  case fields =>
    obtain ⟨hrstn, hdet, hevent⟩ := getLsbD_detFields s.core.pr.rstn s.core.det.label (idleEvent s.build s.core)
    exact ⟨hrstn, hdet.trans (by cases s.core.det <;> rfl), hevent.trans (idleEvent_rti1 hi _)⟩
  case rows =>
    obtain ⟨o, ho⟩ := exists_decodeDet w
    have hits := (decodeDet_eq_ok_iff w o).1 ho
    exact ⟨o, ho, fun o' => ⟨fun h => DetOp.eq_of_hits ((Row.hits_iff ..).2 h) hits, fun h => h ▸ (Row.hits_iff ..).1 hits⟩⟩
  all_goals simp [atEveryInstant, hm, ha]

/-- Settles O21, by the step at a rising edge. -/
theorem risingEdgeRunsDecodedOperations : Obligations.RisingEdgeRunsDecodedOperations := by
  intro s l rest hb
  have hs := step_rise hb
  exact ⟨_, hs, step_rise_eachTo hb hs, step_takesLevels hb.1 hs, (step_levels_settled hb.1 hs).2, rfl, rfl, rfl, rfl, rfl, rfl⟩

/-- Settles O22, by the step at a falling edge. -/
theorem fallingEdgeRunsDomainB : Obligations.FallingEdgeRunsDomainB := by
  intro s l rest hb
  have hs := step_fall hb
  refine ⟨_, s.putTdo s.miso, hs, rfl, rfl, ?_, step_takesLevels hb.1 hs, (step_levels_settled hb.1 hs).2,
    rfl, rfl, rfl, rfl, rfl, rfl⟩
  obtain ⟨he, hhigh, hlow⟩ := hb
  refine step_eachTo he hs (fun c => ?_) fun _ _ _ _ h => h
  rw [clockedOne_of_fall hhigh hlow]
  exact ⟨rfl, rfl, rfl, rfl, rfl, rfl, rfl, rfl⟩

/-- Settles O23, by the step at a change of levels without an edge. -/
theorem stillClockKeepsRegisters : Obligations.StillClockKeepsRegisters := by
  refine ⟨fun s l rest hb => ?_, fun s he => by rw [step_eq, State.stepped, he]⟩
  have hs := step_still hb
  obtain ⟨he, hsame⟩ := hb
  refine ⟨_, hs, ?_, step_takesLevels he hs, (step_levels_settled he hs).2, rfl, rfl, rfl, rfl, rfl, rfl⟩
  refine step_eachTo he hs (fun c => ?_) fun _ _ _ _ h => h
  rw [clockedOne_of_still hsame]
  exact ⟨rfl, rfl, rfl, rfl, rfl, rfl, rfl, rfl⟩

/-- Settles O24, by the two branches of `step` that a stream item takes. -/
theorem stepRunsStreamItem : Obligations.StepRunsStreamItem :=
  ⟨fun s rest he => by rw [step, he], fun s h body rest he => by rw [step, he]⟩

/-- Settles O36: the listing for the three registers, the ordinary updates for the others, and IDLE releases chip select. -/
theorem domainAReset : Obligations.DomainAReset := by
  refine ⟨fun s t l rest hb hc hs => ?reset, fun s t l rest he hr hs => ?still, fun s h hsel hd => ?deselected⟩
  case reset =>
    have hfsm := (step_rise_fsm hb hs).trans (nextFsm_of_capture hc)
    simp only [Prod.mk.injEq] at hfsm
    obtain ⟨ef, eh, eb⟩ := hfsm
    obtain ⟨hmosi, hcsn, -⟩ := step_rise_pins hb hs
    obtain ⟨htdo, -⟩ := step_keeps_tdoQ hb.1 (by simp [hb.2.1]) hs
    refine ⟨ef, eh, eb, htdo, hmosi, hcsn, (step_rise_eachTo hb hs).1, fun v u l' rest' hv hb' hs' => ?_⟩
    obtain ⟨-, hcsn', -⟩ := step_rise_pins hb' hs'
    simp [hcsn', hv, ef]
  case still => exact (step_keeps_domainA he hr hs).mono fun _ _ ⟨hf, hh, hn, _⟩ => ⟨hf, hh, hn⟩
  case deselected =>
    have hcapture := (decode_aOp_iff s .reset).1 hd
    exact absurd (hcapture.symm.trans (h.1.deselected hsel).1) (by simp)

/-- Settles O37: DET.CLEAR deselects, a settled bridge that is not selected enables nothing and shows the listing no flag, and a
PASSTHROUGH detector writes nothing. -/
theorem tapReset : Obligations.TapReset := by
  refine ⟨fun s t l rest hm hb hr hs => ?clear, fun s t l rest hm h hsel hb hs => ?counting, fun s t l rest hm hb hs => ?unused⟩
  case clear =>
    obtain ⟨hdet, hselected, -⟩ := step_rise_detector hm hb hs ((decode_detClear_iff s).2 hr) rfl
    obtain ⟨hbuild, hsettled, -⟩ := step_levels_settled hb.1 hs
    have hsel : t.core.sig.sel = false := (hsettled.sig_latched (hbuild ▸ hm)).1.trans hselected
    obtain ⟨hcsn, hclk, hmosi⟩ := hsettled.pins_z hsel
    obtain ⟨hcapture, hshift⟩ := hsettled.deselected hsel
    exact ⟨hdet, hselected, hcsn, hclk, hmosi, hcapture, hshift, (step_rise_eachTo hb hs).1⟩
  case counting =>
    have hlow : s.core.sig.sel = false := (h.1.sig_latched hm).1.trans hsel
    obtain ⟨hcapture, hshift⟩ := h.1.deselected hlow
    have hfsm := step_rise_fsm hb hs
    refine ⟨by rw [hfsm, State.nextFsm, hcapture, hshift], fun hidle => ?_⟩
    rw [nextFsm_of_idle hcapture hidle (by simp [hshift])] at hfsm
    exact congrArg Prod.fst hfsm
  case unused =>
    have hdet := step_rise_det hb hs
    simpa only [State.nextDet, hm, Prod.mk.injEq] using hdet

/-- Settles O40: each net by its enabled drivers; in a settled machine the three enables of a bridge are one. -/
theorem netLevels : Obligations.NetLevels := by
  refine ⟨fun _ => ⟨rfl, rfl, rfl⟩, fun s p h => ?none, fun s p before after c he hc h => ?one,
    fun s p before between after c d he hc hd => ?two, fun s p hs hx => ?exclusive⟩
  case none => exact netLevel_of_none (by simpa using h)
  case one =>
    rw [State.net, he, List.map_append, List.map_cons]
    refine netLevel_of_one hc fun e hmem => ?_
    rw [← List.map_append] at hmem
    obtain ⟨d, hd, rfl⟩ := List.mem_map.1 hmem
    exact h d hd
  case two =>
    rw [State.net, he, List.map_append, List.map_cons, List.map_append, List.map_cons]
    exact netLevel_of_two hc hd
  case exclusive =>
    have henable : (s.core :: s.peers).filter (fun c => (c.driver p).1) = (s.core :: s.peers).filter (fun c => c.pins.csnOe) := by
      refine List.filter_congr fun c hc => ?_
      rcases List.mem_cons.1 hc with rfl | hc
      · rw [hs.1.driver_enable]
      · rw [(hs.2 c hc).driver_enable]
    unfold State.Exclusive at hx
    rw [State.net, netLevel, filter_driver]
    cases hfilter : (s.core :: s.peers).filter (fun c => (c.driver p).1) with
    | nil => exact .inl rfl
    | cons c cs =>
      rw [← henable, hfilter] at hx
      obtain rfl : cs = [] := by simpa using hx
      obtain ⟨hmem, hc⟩ := List.mem_filter.1 (hfilter ▸ List.mem_singleton_self c)
      exact .inr ⟨c, hmem, hc, rfl⟩

/-- Settles O49: a settled bridge that is not selected enables nothing, and each register is reached by its own edge only. -/
theorem deselectionDisablesThePins : Obligations.DeselectionDisablesThePins := by
  refine ⟨fun s t l rest hm he hs => ?pins, fun s t l rest he hr hs => ?registers,
    fun s h => h.mono fun _ hc hsel => hc.deselected hsel⟩
  case pins =>
    obtain ⟨hbuild, hsettled⟩ := step_levels_settled he hs
    obtain ⟨-, -, -, hjt, -⟩ := step_takesLevels he hs
    refine ⟨hjt, hsettled.mono fun c hc hsel => hc.pins_z ?_⟩
    rw [hc.sig_passthrough (hbuild ▸ hm)]
    exact hsel
  case registers =>
    refine step_eachTo he hs (fun c => ?_) fun _ _ _ _ h => h
    obtain ⟨hf, hh, hn, hcsn, hmosi⟩ := clockedOne_sameDomainA hr c
    refine ⟨hf, hh, hn, hcsn, hmosi, ?_⟩
    split
    · next h => exact clockedOne_tdoQ_of_fall h.1 h.2 c
    · next h => exact clockedOne_tdoQ_of_not_fall h c

end Sys2Proof.Machine
end

section
/-! PROOF. Ticks and stream items (rules R6, R68, R138, R150, R153, R88): what one tick does, what the ticks of an item are, and the
selection over them. -/

namespace Sys2Proof.Machine

/-! ## A change of levels in the bridge in focus -/

theorem after_sameDomainA {s : State} {l : Levels} (h : ¬ (s.tck = false ∧ l.tck = true)) :
    s.core.SameDomainA (s.after l).core := by
  rw [after_core]
  exact clockedOne_sameDomainA h s.core

theorem after_det {s : State} {l : Levels} (h : ¬ (s.tck = false ∧ l.tck = true)) :
    (s.after l).core.det = s.core.det ∧ (s.after l).core.selected = s.core.selected := by
  rw [after_core]
  exact clockedOne_det h s.core

theorem after_risen {s : State} {l : Levels} (h : s.tck = false) (hl : l.tck = true) :
    SameRegisters s.risen (s.after l).core := by
  rw [after_rise h hl]
  exact settledIn_sameRegisters ..

@[simp] theorem after_jt (s : State) (l : Levels) : (s.after l).core.jt = l.jt := by rw [after_core]; rfl
@[simp] theorem after_pr (s : State) (l : Levels) : (s.after l).core.pr = l.pr := by rw [after_core]; rfl

/-- The selection of a settled bridge (rules R81, R86). -/
theorem Core.Settled.sel_eq {b : Build} {tck : Bool} {c : Core} (h : c.Settled b tck) :
    c.sig.sel = (match b.detMode with | .passthrough => c.jt.sel | .latched => c.selected) := by
  obtain ⟨hsig, -⟩ := h
  rw [hsig]
  cases hm : b.detMode <;> simp [Core.detSignals, hm]

/-! ## The three changes of a tick -/

/-- The state immediately before the rising edge of a tick: the host has set `tdi` and the flags. -/
def State.setUp (s : State) (t : TickLine) : State := s.after (t.levels false s.miso)

/-- The state between the two edges of a tick. -/
def State.raised (s : State) (t : TickLine) : State := (s.setUp t).after (t.levels true t.miso)

theorem tick_eq (s : State) (t : TickLine) : s.tick t = (s.raised t).after (t.levels false t.miso) := rfl

@[simp] theorem setUp_tck (s : State) (t : TickLine) : (s.setUp t).tck = false := by simp [State.setUp, TickLine.levels]
@[simp] theorem setUp_tdi (s : State) (t : TickLine) : (s.setUp t).tdi = t.tdi := by simp [State.setUp, TickLine.levels]
@[simp] theorem setUp_build (s : State) (t : TickLine) : (s.setUp t).build = s.build := by simp [State.setUp]
@[simp] theorem setUp_pr (s : State) (t : TickLine) : (s.setUp t).core.pr = t.pr := by simp [State.setUp, TickLine.levels]
@[simp] theorem setUp_jt (s : State) (t : TickLine) :
    (s.setUp t).core.jt = { sel := t.sel, shift := t.shift, capture := t.capture } := by simp [State.setUp, TickLine.levels]

/-- Setting the inputs up writes no Domain-A register. -/
theorem setUp_sameDomainA (s : State) (t : TickLine) : s.core.SameDomainA (s.setUp t).core :=
  after_sameDomainA (by simp [TickLine.levels])

theorem setUp_det (s : State) (t : TickLine) :
    (s.setUp t).core.det = s.core.det ∧ (s.setUp t).core.selected = s.core.selected :=
  after_det (by simp [TickLine.levels])

theorem setUp_settled (s : State) (t : TickLine) : (s.setUp t).core.Settled s.build false := by
  have h := (after_settled s (t.levels false s.miso)).1
  rwa [after_build, after_tck] at h

@[simp] theorem raised_tck (s : State) (t : TickLine) : (s.raised t).tck = true := by simp [State.raised, TickLine.levels]
@[simp] theorem raised_build (s : State) (t : TickLine) : (s.raised t).build = s.build := by simp [State.raised]

theorem raised_risen (s : State) (t : TickLine) : SameRegisters (s.setUp t).risen (s.raised t).core :=
  after_risen (setUp_tck s t) rfl

theorem raised_settled (s : State) (t : TickLine) : (s.raised t).core.Settled s.build true := by
  have h := (after_settled (s.setUp t) (t.levels true t.miso)).1
  rwa [after_build, after_tck, setUp_build] at h

/-- The falling edge of a tick writes no register but `tdo_q`. -/
theorem tick_sameDomainA (s : State) (t : TickLine) : (s.raised t).core.SameDomainA (s.tick t).core :=
  after_sameDomainA (by simp [TickLine.levels])

theorem tick_raised_det (s : State) (t : TickLine) :
    (s.tick t).core.det = (s.raised t).core.det ∧ (s.tick t).core.selected = (s.raised t).core.selected :=
  after_det (by simp [TickLine.levels])

/-! ## What one tick does -/

@[simp] theorem tick_build (s : State) (t : TickLine) : (s.tick t).build = s.build := by simp [tick_eq]
@[simp] theorem tick_peers_length (s : State) (t : TickLine) : (s.tick t).peers.length = s.peers.length := by
  simp [tick_eq, State.raised, State.setUp]
@[simp] theorem tick_tck (s : State) (t : TickLine) : (s.tick t).tck = false := by simp [tick_eq, TickLine.levels]
@[simp] theorem tick_tdi (s : State) (t : TickLine) : (s.tick t).tdi = t.tdi := by simp [tick_eq, TickLine.levels]
@[simp] theorem tick_miso (s : State) (t : TickLine) : (s.tick t).miso = t.miso := by simp [tick_eq, TickLine.levels]

theorem tick_settled (s : State) (t : TickLine) : (s.tick t).Settled := after_settled ..

/-- A tick takes the state machine through the listing, on the inputs set up before its rising edge. -/
theorem tick_fsm (s : State) (t : TickLine) :
    ((s.tick t).core.fsm, (s.tick t).core.head, (s.tick t).core.bits) = (s.setUp t).nextFsm := by
  obtain ⟨hf, hh, hb, -, -⟩ := tick_sameDomainA s t
  obtain ⟨hf', hh', hb', -⟩ := raised_risen s t
  rw [hf, hh, hb, hf', hh', hb', risen_fsm]

/-- The two pin registers after a tick. -/
theorem tick_pinRegisters (s : State) (t : TickLine) :
    (s.tick t).core.mosiQ = t.tdi ∧ (s.tick t).core.csnQ = decide (s.core.fsm ≠ .transfer) := by
  obtain ⟨-, -, -, hcsn, hmosi⟩ := tick_sameDomainA s t
  obtain ⟨-, -, -, hmosi', hcsn', -⟩ := raised_risen s t
  obtain ⟨hm, hc⟩ := risen_pinRegisters (s.setUp t)
  obtain ⟨hf, -⟩ := setUp_sameDomainA s t
  rw [hcsn, hmosi, hmosi', hcsn', hm, hc, setUp_tdi, hf]
  exact ⟨rfl, rfl⟩

/-- The detector's registers after a tick. -/
theorem tick_det (s : State) (t : TickLine) : ((s.tick t).core.det, (s.tick t).core.selected) = (s.setUp t).nextDet := by
  obtain ⟨hd, hs⟩ := tick_raised_det s t
  obtain ⟨-, -, -, -, -, -, hd', hs'⟩ := raised_risen s t
  rw [hd, hs, hd', hs', risen_nextDet]

/-- A tick that holds the TAP out of reset keeps the registers of a detector that is held (rule R85); a PASSTHROUGH build has none. -/
theorem tick_keeps_det {s : State} {t : TickLine} (hr : t.pr.rstn = true) (h : s.build.detMode = .latched → s.core.det = .held) :
    (s.tick t).core.det = s.core.det ∧ (s.tick t).core.selected = s.core.selected := by
  obtain ⟨hd, hs⟩ := setUp_det s t
  have hdet := tick_det s t
  cases hm : s.build.detMode with
  | passthrough => simpa [State.nextDet, hm, hd, hs] using hdet
  | latched => simpa [State.nextDet, hm, hd, hs, h hm, hr, DetOp.select] using hdet

/-- The selection at the end of a tick is that between its edges: in a PASSTHROUGH build the tick's own, in a LATCHED build the
register. -/
theorem tick_sel (s : State) (t : TickLine) :
    (s.tick t).core.sig.sel = (match s.build.detMode with | .passthrough => t.sel | .latched => (s.tick t).core.selected) ∧
    (s.raised t).core.sig.sel = (s.tick t).core.sig.sel := by
  obtain ⟨-, hs⟩ := tick_raised_det s t
  have hend := (tick_settled s t).1.sel_eq
  have hmid := (raised_settled s t).sel_eq
  have hjt : (s.tick t).core.jt.sel = t.sel := by simp [tick_eq, TickLine.levels]
  have hjt' : (s.raised t).core.jt.sel = t.sel := by simp [State.raised, TickLine.levels]
  rw [tick_build, hjt] at hend
  rw [hjt', ← hs] at hmid
  exact ⟨hend, hmid.trans hend.symm⟩

/-- `tdo_q` after a tick is the `miso` level that the device presented in it. -/
theorem tick_tdoQ (s : State) (t : TickLine) : (s.tick t).core.tdoQ = t.miso := by
  rw [tick_eq, after_tdoQ, if_pos ⟨raised_tck s t, rfl⟩]
  simp [State.raised, TickLine.levels]

/-- The host reads one bit a tick, the `tdo_q` from before it. -/
theorem tick_hostLog {s : State} (h : s.tck = false) (t : TickLine) :
    (s.tick t).hostLog = s.core.tdoQ :: s.hostLog := by
  have hup : (s.setUp t).hostLog = s.hostLog ∧ (s.setUp t).core.tdoQ = s.core.tdoQ := by
    simp [State.setUp, after_hostLog, after_tdoQ, TickLine.levels, h]
  have hmid : (s.raised t).hostLog = s.core.tdoQ :: s.hostLog := by
    rw [State.raised, after_hostLog, if_pos ⟨setUp_tck s t, rfl⟩, hup.1, hup.2]
  rw [tick_eq, after_hostLog, hmid]
  simp

/-- What the SPI device is shown in a tick, by the selection and the two pin registers. -/
def tickSample (sel csn mosi : Bool) : SpiSample := { csn := pinLevel sel csn, mosi := pinLevel sel mosi }

/-- The SPI device is shown one sample a tick: chip select by the state before it and `mosi` by its `tdi`, under its selection. -/
theorem tick_spiLog {s : State} (h : s.tck = false) (t : TickLine) :
    (s.tick t).spiLog = tickSample (s.tick t).core.sig.sel (decide (s.core.fsm ≠ .transfer)) t.tdi :: s.spiLog := by
  have hmid : (s.raised t).spiLog = s.spiLog := by
    simp [State.raised, State.setUp, after_spiLog, TickLine.levels, h]
  obtain ⟨hmosi, hcsn⟩ := tick_pinRegisters s t
  obtain ⟨-, -, -, hcsn', hmosi'⟩ := tick_sameDomainA s t
  obtain ⟨hcsnOe, -, hmosiOe, -, -⟩ := (raised_settled s t).enables
  rw [tick_eq, after_spiLog, if_pos ⟨raised_tck s t, rfl⟩, hmid]
  rw [← tick_eq, tickSample, Core.spiSample, Core.pinCsn, Core.pinMosi, hcsnOe, hmosiOe, (tick_sel s t).2, ← hcsn, ← hmosi, hcsn', hmosi']

/-- The SPI clock is low between the edges of a tick and high after it. -/
theorem tick_clkO (s : State) (t : TickLine) : (s.raised t).core.pins.clkO = false ∧ (s.tick t).core.pins.clkO = true := by
  obtain ⟨hmid, -, -⟩ := (raised_settled s t).clk_miso
  obtain ⟨hend, -, -⟩ := (tick_settled s t).1.clk_miso
  exact ⟨hmid, by simpa using hend⟩

/-! ## Several ticks -/

theorem foldl_tick_tck {s : State} (h : s.tck = false) (ts : List TickLine) : (ts.foldl State.tick s).tck = false :=
  List.foldlRecOn (motive := fun u => u.tck = false) ts _ h fun u _ t _ => tick_tck u t

@[simp] theorem foldl_tick_build (s : State) (ts : List TickLine) : (ts.foldl State.tick s).build = s.build :=
  List.foldlRecOn (motive := fun u => u.build = s.build) ts _ rfl fun u hu t _ => (tick_build u t).trans hu

theorem foldl_tick_peers_length (s : State) (ts : List TickLine) : (ts.foldl State.tick s).peers.length = s.peers.length :=
  List.foldlRecOn (motive := fun u => u.peers.length = s.peers.length) ts _ rfl fun u hu t _ => (tick_peers_length u t).trans hu

/-- One more tick of a list. -/
theorem foldl_tick_take_succ {ts : List TickLine} {k : Nat} {t : TickLine} (h : ts[k]? = some t) (s : State) :
    (ts.take (k + 1)).foldl State.tick s = ((ts.take k).foldl State.tick s).tick t := by
  rw [List.take_add_one, h, Option.toList_some, List.foldl_append, List.foldl_cons, List.foldl_nil]

/-- The host reads the `miso` stream one tick late (rule R153). -/
theorem foldl_tick_readBack (ts : List TickLine) {s : State} (h : s.tck = false) :
    (ts.foldl State.tick s).core.tdoQ :: (ts.foldl State.tick s).hostLog =
      (ts.map TickLine.miso).reverse ++ s.core.tdoQ :: s.hostLog := by
  induction ts generalizing s with
  | nil => rfl
  | cons t ts ih =>
    rw [List.foldl_cons, ih (tick_tck s t), tick_tdoQ, tick_hostLog h]
    simp

/-- Ticks that hold the TAP out of reset keep the registers of a detector that is held. -/
theorem foldl_tick_keeps_det {ts : List TickLine} (hr : ∀ t ∈ ts, t.pr.rstn = true) {s : State}
    (h : s.build.detMode = .latched → s.core.det = .held) :
    (ts.foldl State.tick s).core.det = s.core.det ∧ (ts.foldl State.tick s).core.selected = s.core.selected := by
  induction ts generalizing s with
  | nil => exact ⟨rfl, rfl⟩
  | cons t ts ih =>
    obtain ⟨hd, hs⟩ := tick_keeps_det (hr t (by simp)) h
    obtain ⟨hd', hs'⟩ := ih (fun u hu => hr u (by simp [hu])) (s := s.tick t) (by rwa [tick_build, hd])
    exact ⟨hd'.trans hd, hs'.trans hs⟩

/-! ## Stream items are ticks (rule R68) -/

/-- The machine with the given queues of the environment: what it does next, and the `miso` levels of stream items. -/
def State.withQueues (s : State) (e : List Stim) (f : List Bool) : State := { s with env := e, misoFeed := f }

@[simp] theorem State.withQueues_build (s : State) (e : List Stim) (f : List Bool) : (s.withQueues e f).build = s.build := rfl
@[simp] theorem State.withQueues_core (s : State) (e : List Stim) (f : List Bool) : (s.withQueues e f).core = s.core := rfl
@[simp] theorem State.withQueues_peers (s : State) (e : List Stim) (f : List Bool) : (s.withQueues e f).peers = s.peers := rfl
@[simp] theorem State.withQueues_tck (s : State) (e : List Stim) (f : List Bool) : (s.withQueues e f).tck = s.tck := rfl
@[simp] theorem State.withQueues_tdi (s : State) (e : List Stim) (f : List Bool) : (s.withQueues e f).tdi = s.tdi := rfl
@[simp] theorem State.withQueues_miso (s : State) (e : List Stim) (f : List Bool) : (s.withQueues e f).miso = s.miso := rfl
@[simp] theorem State.withQueues_env (s : State) (e : List Stim) (f : List Bool) : (s.withQueues e f).env = e := rfl
@[simp] theorem State.withQueues_misoFeed (s : State) (e : List Stim) (f : List Bool) : (s.withQueues e f).misoFeed = f := rfl
@[simp] theorem State.withQueues_hostLog (s : State) (e : List Stim) (f : List Bool) :
    (s.withQueues e f).hostLog = s.hostLog := rfl
@[simp] theorem State.withQueues_spiLog (s : State) (e : List Stim) (f : List Bool) : (s.withQueues e f).spiLog = s.spiLog := rfl
@[simp] theorem State.withQueues_settled (s : State) (e : List Stim) (f : List Bool) :
    (s.withQueues e f).Settled ↔ s.Settled := Iff.rfl

/-- No change of levels reads the queues. -/
theorem after_withQueues (s : State) (e : List Stim) (f : List Bool) (l : Levels) :
    (s.withQueues e f).after l = (s.after l).withQueues e f := by
  have hrisen : (s.withQueues e f).risen = s.risen := risen_congr rfl rfl rfl
  have hrisens : ∀ c, ((s.withQueues e f).focus c).risen = (s.focus c).risen := fun _ => risen_congr rfl rfl rfl
  cases ht : s.tck <;> cases hl : l.tck
  · rw [after_still (hl.trans ht.symm), after_still (s := s.withQueues e f) (hl.trans ht.symm)]
    rfl
  · rw [after_rise ht hl, after_rise (s := s.withQueues e f) ht hl, hrisen]
    simp only [hrisens]
    rfl
  · rw [after_fall ht hl, after_fall (s := s.withQueues e f) ht hl]
    rfl
  · rw [after_still (hl.trans ht.symm), after_still (s := s.withQueues e f) (hl.trans ht.symm)]
    rfl

theorem foldl_after_withQueues (ls : List Levels) (s : State) (e : List Stim) (f : List Bool) :
    ls.foldl State.after (s.withQueues e f) = (ls.foldl State.after s).withQueues e f := by
  induction ls generalizing s with
  | nil => rfl
  | cons l ls ih => rw [List.foldl_cons, after_withQueues, ih, List.foldl_cons]

theorem tick_withQueues (s : State) (e : List Stim) (f : List Bool) (t : TickLine) :
    (s.withQueues e f).tick t = (s.tick t).withQueues e f := foldl_after_withQueues ..

theorem foldl_tick_withQueues (ts : List TickLine) (s : State) (e : List Stim) (f : List Bool) :
    ts.foldl State.tick (s.withQueues e f) = (ts.foldl State.tick s).withQueues e f := by
  induction ts generalizing s with
  | nil => rfl
  | cons t ts ih => rw [List.foldl_cons, tick_withQueues, ih, List.foldl_cons]

/-- The tick that shifts in one bit uses up one of the `miso` levels in the queue. -/
theorem itemBit_eq (s : State) (b : Bool) :
    s.itemBit b = (s.tick { tdi := b, miso := s.misoFeed.headD false }).withQueues s.env s.misoFeed.tail := by
  rw [← tick_withQueues]
  rfl

theorem exec_nop (s : State) : exec .nop s = .next (s.itemBit false) := itemTick_eq false s

theorem exec_xfer (h : Nat) (body : List Bool) (s : State) :
    exec (.xfer h body) s = .next ((frameBits s.build.w h body).foldl State.itemBit s) := itemTicks_eq _ s

/-- The tick lines of a stream item: its bits, with what the device presents on `miso`. -/
def itemLines : List Bool → List Bool → List TickLine
  | [], _ => []
  | b :: bs, feed => { tdi := b, miso := feed.headD false } :: itemLines bs feed.tail

/-- The ticks of a stream item are those of its tick lines; of the queue of `miso` levels one is used up a tick. -/
theorem foldl_itemBit (bits : List Bool) (s : State) :
    bits.foldl State.itemBit s =
      ((itemLines bits s.misoFeed).foldl State.tick s).withQueues s.env (s.misoFeed.drop bits.length) := by
  induction bits generalizing s with
  | nil => rfl
  | cons b bs ih =>
    rw [List.foldl_cons, ih, itemBit_eq]
    change ((itemLines bs s.misoFeed.tail).foldl State.tick (State.withQueues _ _ _)).withQueues _ _ = _
    rw [foldl_tick_withQueues]
    cases hfeed : s.misoFeed <;> simp [itemLines, State.withQueues]

@[simp] theorem itemLines_tdi (bits feed : List Bool) : (itemLines bits feed).map TickLine.tdi = bits := by
  induction bits generalizing feed with
  | nil => rfl
  | cons b bs ih => simp [itemLines, ih]

@[simp] theorem itemLines_length (bits feed : List Bool) : (itemLines bits feed).length = bits.length := by
  rw [← List.length_map (f := TickLine.tdi), itemLines_tdi]

theorem itemLines_miso (bits feed : List Bool) :
    (itemLines bits feed).map TickLine.miso = (List.range bits.length).map fun k => feed.getD k false := by
  induction bits generalizing feed with
  | nil => rfl
  | cons b bs ih =>
    rw [itemLines, List.map_cons, ih, List.length_cons, List.range_succ_eq_map, List.map_cons, List.map_map]
    cases feed <;> simp [Function.comp_def]

/-- Without anything fed on `miso` the tick lines are the plain ones of the bits. -/
theorem itemLines_nil (bits : List Bool) : itemLines bits [] = bits.map fun b => ({ tdi := b } : TickLine) := by
  induction bits with
  | nil => rfl
  | cons b bs ih => simpa [itemLines] using ih

/-- The flags of a stream item's ticks: selected, in Shift-DR, not capturing, the TAP out of reset. -/
theorem itemLines_flags {bits feed : List Bool} {t : TickLine} (h : t ∈ itemLines bits feed) :
    t.sel = true ∧ t.shift = true ∧ t.capture = false ∧ t.pr = { shift := true, ce := true, rstn := true } := by
  induction bits generalizing feed with
  | nil => simp [itemLines] at h
  | cons b bs ih =>
    rcases List.mem_cons.1 h with rfl | h
    · exact ⟨rfl, rfl, rfl, rfl⟩
    · exact ih h

theorem itemLines_rstn {bits feed : List Bool} {t : TickLine} (h : t ∈ itemLines bits feed) : t.pr.rstn = true := by
  obtain ⟨-, -, -, hpr⟩ := itemLines_flags h
  rw [hpr]

/-- What such flags tell the state machine: no reset, and a shift when the chain is selected. -/
theorem setUp_sig_of_flags (s : State) {t : TickLine} (hsel : t.sel = true) (hshift : t.shift = true) (hcapture : t.capture = false)
    (hpr : t.pr = { shift := true, ce := true, rstn := true }) :
    (s.setUp t).core.sig.capture = false ∧
    ((s.build.detMode = .latched → s.core.selected = true) → (s.setUp t).core.sig.shift = true) := by
  obtain ⟨hsig, -⟩ := setUp_settled s t
  obtain ⟨-, hselected⟩ := setUp_det s t
  rw [hsig]
  cases hm : s.build.detMode <;> simp [Core.detSignals, hm, hselected, hpr, hsel, hshift, hcapture]

/-! ## Runs over the changes of levels that ticks make -/

/-- A run over changes of levels that stand in the queue is these changes. -/
theorem run_levels (ls : List Levels) (s : State) (rest : List Stim) (f : List Bool) :
    Host.Core.run Sys2Proof.core ls.length (s.withQueues (ls.map Stim.levels ++ rest) f) =
      .next ((ls.foldl State.after s).withQueues rest f) := by
  induction ls generalizing s with
  | nil => rfl
  | cons l ls ih =>
    have hstep : (s.withQueues ((l :: ls).map Stim.levels ++ rest) f).stepped =
        (s.after l).withQueues (ls.map Stim.levels ++ rest) f := by
      rw [← after_withQueues]
      rfl
    rw [List.length_cons, run_succ, hstep, ih, List.foldl_cons]

theorem tickChanges_length (miso : Bool) (ts : List TickLine) : (tickChanges miso ts).length = 3 * ts.length := by
  induction ts generalizing miso with
  | nil => rfl
  | cons t ts ih =>
    simp [tickChanges, TickLine.changes, ih]
    omega

theorem foldl_tickChanges (ts : List TickLine) (s : State) :
    (tickChanges s.miso ts).foldl State.after s = ts.foldl State.tick s := by
  induction ts generalizing s with
  | nil => rfl
  | cons t ts ih =>
    rw [tickChanges, List.foldl_append, List.foldl_cons, ← ih, tick_miso]
    rfl

/-! ## The statements -/

/-- Settles O41, by what one tick does. -/
theorem outputsOfATick : Obligations.OutputsOfATick := by
  intro s t h
  obtain ⟨hmid, hend⟩ := tick_clkO s t
  exact ⟨s.raised t, s.tick t, applyAll_eq .., runTick_tick t s, hmid, hend, (tick_sel s t).1, tick_spiLog h t, tick_hostLog h t,
    tick_tdoQ s t, tick_tck s t⟩

/-- Settles O42, by induction on the ticks. -/
theorem readBackIsMisoOneTickLate : Obligations.ReadBackIsMisoOneTickLate := by
  intro ts s u h hu
  rw [runTicks_eq] at hu
  cases hu
  exact foldl_tick_readBack ts h

/-- Settles O43: the item is one tick whose `tdi` is low, so that IDLE takes no trigger. -/
theorem nopItem : Obligations.NopItem := by
  intro s h hf
  rw [exec_nop, itemBit_eq]
  generalize ht : ({ tdi := false, miso := s.misoFeed.headD false } : TickLine) = t
  have htdi : t.tdi = false := by rw [← ht]
  have hmiso : t.miso = s.misoFeed.headD false := by rw [← ht]
  have hrstn : t.pr.rstn = true := by rw [← ht]
  have hcapture := (setUp_sig_of_flags s (t := t) (by rw [← ht]) (by rw [← ht]) (by rw [← ht]) (by rw [← ht])).1
  obtain ⟨hf', hh', hb', -⟩ := setUp_sameDomainA s t
  have hfsm := tick_fsm s t
  rw [nextFsm_of_idle hcapture (hf'.trans hf) (by simp [htdi]), hh', hb'] at hfsm
  simp only [Prod.mk.injEq] at hfsm
  obtain ⟨ef, eh, eb⟩ := hfsm
  obtain ⟨hmosi, hcsn⟩ := tick_pinRegisters s t
  have hhigh : decide (s.core.fsm ≠ .transfer) = true := by simp [hf]
  have hspi := tick_spiLog h t
  rw [hhigh, htdi, tickSample] at hspi
  refine ⟨_, rfl, ?_⟩
  simp only [State.withQueues_core, State.withQueues_hostLog, State.withQueues_spiLog, State.withQueues_misoFeed,
    State.withQueues_tck, State.withQueues_tdi, State.withQueues_miso, State.withQueues_settled, State.withQueues_build,
    State.withQueues_env, State.withQueues_peers, true_and]
  exact ⟨ef, eh, eb, hcsn.trans hhigh, hmosi.trans htdi, (tick_tdoQ s t).trans hmiso, tick_keeps_det hrstn, tick_hostLog h t,
    hspi, tick_tck s t, (tick_tdi s t).trans htdi, (tick_miso s t).trans hmiso, tick_settled s t, tick_build s t,
    tick_peers_length s t⟩

/-- Settles O50: the item is its tick lines, and a run over the changes that they make is these changes. -/
theorem streamItemsAreTheirTicks : Obligations.StreamItemsAreTheirTicks := by
  intro s i bits rest hfeed hi
  have hexec : exec i (s.withQueues rest s.misoFeed) = .next (bits.foldl State.itemBit (s.withQueues rest s.misoFeed)) := by
    obtain ⟨rfl, rfl⟩ | ⟨h, body, rfl, rfl⟩ := hi
    · rw [exec_nop, List.foldl_cons, List.foldl_nil]
    · exact exec_xfer ..
  have hlines : bits.foldl State.itemBit (s.withQueues rest s.misoFeed) =
      ((bits.map fun b => ({ tdi := b } : TickLine)).foldl State.tick s).withQueues rest s.misoFeed := by
    rw [foldl_itemBit, foldl_tick_withQueues]
    simp [State.withQueues, hfeed, itemLines_nil]
  have hrun := run_levels (tickChanges s.miso (bits.map fun b => ({ tdi := b } : TickLine))) s rest s.misoFeed
  rw [tickChanges_length, List.length_map, foldl_tickChanges] at hrun
  change Host.Core.run Sys2Proof.core _ (s.withQueues _ s.misoFeed) = exec i (s.withQueues rest s.misoFeed)
  rw [hexec, hlines]
  exact hrun

/-- Settles O38: the edge by the detector's operation, and a stream item by its ticks, which hold the TAP out of reset. -/
theorem selectionTimeline : Obligations.SelectionTimeline := by
  refine ⟨fun s t l rest hm hb hw he hs => ?waiting, fun s t l rest hm hb hr hw he hs => ?event, fun s t hm hh hsel hr hs => ?held⟩
  case waiting =>
    have hdet := step_rise_det hb hs
    have hnext : s.nextDet = (.wait, false) := by
      have hevent : idleEvent s.build s.core = false := he
      cases hr : s.core.pr.rstn <;> simp [State.nextDet, hm, DetOp.select, hr, hw, hevent]
    simp only [hnext, Prod.mk.injEq] at hdet
    obtain ⟨hwait, hselected⟩ := hdet
    obtain ⟨hbuild, hsettled, -⟩ := step_levels_settled hb.1 hs
    have hlow : t.core.sig.sel = false := (hsettled.sig_latched (hbuild ▸ hm)).1.trans hselected
    exact ⟨hwait, hselected, hlow, (hsettled.pins_z hlow).1⟩
  case event =>
    obtain ⟨hheld, hselected, -⟩ := step_rise_detector hm hb hs ((decode_detLatch_iff s).2 ⟨hr, hw, he⟩) rfl
    obtain ⟨hbuild, hsettled, -⟩ := step_levels_settled hb.1 hs
    exact ⟨hheld, hselected, (hsettled.sig_latched (hbuild ▸ hm)).1.trans hselected⟩
  case held =>
    have items : ∀ (bits : List Bool) (rest : List Stim),
        (bits.foldl State.itemBit ({ s with env := rest } : State)).core.det = .held ∧
        (bits.foldl State.itemBit ({ s with env := rest } : State)).core.selected = true := by
      intro bits rest
      rw [foldl_itemBit]
      obtain ⟨hd, hk⟩ := foldl_tick_keeps_det (ts := itemLines bits s.misoFeed) (s := { s with env := rest })
        (fun _ => itemLines_rstn) (fun _ => hh)
      exact ⟨hd.trans hh, hk.trans hsel⟩
    rcases step_cases s with ⟨-, e⟩ | ⟨l, rest, he, e⟩ | ⟨rest, -, e⟩ | ⟨h, body, rest, -, e⟩
    · rw [e] at hs
      cases hs
      exact ⟨hh, hsel⟩
    · by_cases hrise : s.tck = false ∧ l.tck = true
      · have hb : BeforeRise s l rest := ⟨he, hrise⟩
        obtain ⟨hheld, hkept, -⟩ := step_rise_detector hm hb hs ((decode_detHold_iff s).2 ⟨hr l rest hb, hh⟩) rfl
        exact ⟨hheld, hkept.trans hsel⟩
      · rw [e] at hs
        cases hs
        obtain ⟨hd, hk⟩ := after_det (s := { s with env := rest }) hrise
        exact ⟨hd.trans hh, hk.trans hsel⟩
    · rw [e, itemTick_eq] at hs
      cases hs
      exact items [false] rest
    · rw [e, itemTicks_eq] at hs
      cases hs
      exact items _ rest

end Sys2Proof.Machine
end

section
/-! PROOF. Frames (rules R112, R151, R152, R154, R156, R157): where the machine stands at every tick of a frame, whatever the flags
are, and so what the SPI device is shown. -/

namespace Sys2Proof.Machine

/-! ## Headers, bit by bit -/

/-- The number that one more bit of a list spells. -/
theorem msbValue_take_succ {bits : List Bool} {k : Nat} {b : Bool} (h : bits[k]? = some b) :
    msbValue (bits.take (k + 1)) = 2 * msbValue (bits.take k) + b.toNat := by
  rw [List.take_add_one, h, Option.toList_some, msbValue_snoc]

/-- A list that starts with the trigger spells, with `k` bits, at least `2^(k-1)`. -/
theorem le_msbValue_take {bits : List Bool} {k : Nat} (hfirst : bits[0]? = some true) (hk : 1 ≤ k) (hlen : k ≤ bits.length) :
    2 ^ (k - 1) ≤ msbValue (bits.take k) := by
  cases bits with
  | nil => simp at hfirst
  | cons b bs =>
    obtain rfl : b = true := by simpa using hfirst
    obtain ⟨n, rfl⟩ : ∃ n, k = n + 1 := ⟨k - 1, by omega⟩
    have hn : n ≤ bs.length := by simpa using hlen
    rw [List.take_succ_cons, msbValue_cons, List.length_take, Nat.min_eq_left hn]
    simp

/-- A header bit shifted into an accumulator whose low `k` bits are the header so far. -/
theorem shl1_low {w v k x : Nat} (b : Bool) (hv : v % 2 ^ k = x) (hk : k + 1 ≤ w) :
    shl1 w v b % 2 ^ (k + 1) = 2 * x + b.toNat := by
  have hx : x < 2 ^ k := hv ▸ Nat.mod_lt v (Nat.two_pow_pos k)
  have hlt : 2 * x + b.toNat < 2 ^ (k + 1) := by
    have := Bool.toNat_le b
    rw [pow_succ]
    omega
  rw [shl1_mod_congr (b := x) b (by rw [hv, Nat.mod_eq_of_lt hx]) hk, shl1, Nat.mod_mod_of_dvd _ (Nat.pow_dvd_pow 2 hk),
    Nat.mod_eq_of_lt hlt]

/-! ## Where the machine stands in a frame -/

/-- The registers of the state machine immediately before tick `k` of a frame with the given bits and the header value `h`
(rule R112). In HEADER the low bits of the accumulator are the header so far; what stands above them is of no concern. -/
inductive FrameAt (b : Build) (bits : List Bool) (h : Nat) : Nat → Core → Prop
  | start {c : Core} (hf : c.fsm = .idle) : FrameAt b bits h 0 c
  | header {k : Nat} {c : Core} (hpos : 1 ≤ k) (hk : k < b.w) (hf : c.fsm = .header) (hh : c.head = b.w - k)
      (hacc : c.bits % 2 ^ k = msbValue (bits.take k)) : FrameAt b bits h k c
  | body {k : Nat} {c : Core} (hk : k < h) (hf : c.fsm = .transfer) (hh : c.head = b.w - 1) (hn : c.bits = h - k) :
      FrameAt b bits h (b.w + k) c
  | done {c : Core} (hf : c.fsm = .idle) (hh : c.head = b.w - 1) (hn : c.bits = 0) : FrameAt b bits h (b.w + h) c

/-- The place reads the three registers of the state machine. -/
theorem FrameAt.congr {b : Build} {bits : List Bool} {h k : Nat} {c d : Core} (hcd : c.SameDomainA d)
    (hc : FrameAt b bits h k c) : FrameAt b bits h k d := by
  obtain ⟨ef, eh, en, -, -⟩ := hcd
  cases hc with
  | start hf => exact .start (ef.trans hf)
  | header hpos hk hf hh hacc => exact .header hpos hk (ef.trans hf) (eh.trans hh) (by rw [en, hacc])
  | body hk hf hh hn => exact .body hk (ef.trans hf) (eh.trans hh) (en.trans hn)
  | done hf hh hn => exact .done (ef.trans hf) (eh.trans hh) (en.trans hn)

/-- What a frame needs of its bits: the first is the trigger, and the `W` header bits spell `h`. -/
structure FrameHeader (b : Build) (bits : List Bool) (h : Nat) : Prop where
  legal : b.wf = true
  whole : b.w ≤ bits.length
  first : bits[0]? = some true
  value : msbValue (bits.take b.w) = h

/-- A complete header is a number of its `W` bits that is at least `2^(W-1)` (rule R112 (b)). -/
theorem FrameHeader.bounds {b : Build} {bits : List Bool} {h : Nat} (hh : FrameHeader b bits h) :
    2 ^ (b.w - 1) ≤ h ∧ h < 2 ^ b.w := by
  have hlt := msbValue_lt (bits.take b.w)
  rw [List.length_take, Nat.min_eq_left hh.whole] at hlt
  rw [← hh.value]
  exact ⟨le_msbValue_take hh.first (Build.one_le_w hh.legal) hh.whole, hlt⟩

theorem FrameHeader.one_le {b : Build} {bits : List Bool} {h : Nat} (hh : FrameHeader b bits h) : 1 ≤ h :=
  (Nat.two_pow_pos _).trans_le hh.bounds.1

/-- After the last header bit the body begins. -/
theorem FrameAt.of_header_last {b : Build} {bits : List Bool} {h k v : Nat} {c : Core} (hh : FrameHeader b bits h)
    (hk : k + 1 = b.w) (hv : v < 2 ^ b.w) (hlow : v % 2 ^ (k + 1) = msbValue (bits.take (k + 1)))
    (hc : (c.fsm, c.head, c.bits) = finish b v) : FrameAt b bits h (k + 1) c := by
  have hvalue : v = h := by rw [← hh.value, ← hk, ← hlow, hk, Nat.mod_eq_of_lt hv]
  have hpos := hh.one_le
  rw [hvalue, finish_of_ne (by omega)] at hc
  simp only [Prod.mk.injEq] at hc
  obtain ⟨ef, eh, en⟩ := hc
  rw [hk]
  exact .body (k := 0) (by omega) ef eh en

/-- One rising edge inside a frame moves on by one place, whatever the selection and the flags are, as long as the machine is not
reset; only the first one takes a trigger. -/
theorem FrameAt.risen {s : State} {bits : List Bool} {h k : Nat} (hh : FrameHeader s.build bits h)
    (hat : FrameAt s.build bits h k s.core) (hk : k < s.build.w + h) (hc : s.core.sig.capture = false)
    (htrig : k = 0 → (s.core.sig.shift && s.tdi) = true) (hbit : bits[k]? = some s.tdi) :
    FrameAt s.build bits h (k + 1) s.risen := by
  have hone := Build.one_le_w hh.legal
  have hfsm := risen_fsm s
  cases hat with
  | start hf =>
    have htdi : s.tdi = true := (Bool.and_eq_true_iff.1 (htrig rfl)).2
    have hlow : shl1 s.build.w s.core.bits true % 2 ^ (0 + 1) = msbValue (bits.take (0 + 1)) := by
      rw [msbValue_take_succ hbit, htdi]
      exact shl1_low true (Nat.mod_one _) hone
    rw [nextFsm_of_trigger hc hf (htrig rfl)] at hfsm
    by_cases h1 : s.build.w = 1
    · rw [if_pos h1] at hfsm
      exact .of_header_last hh h1.symm (shl1_lt ..) hlow hfsm
    · rw [if_neg h1] at hfsm
      simp only [Prod.mk.injEq] at hfsm
      obtain ⟨ef, eh, en⟩ := hfsm
      exact .header le_rfl (by omega) ef eh (en ▸ hlow)
  | header hpos hkw hf hhead hacc =>
    have hlow : shl1 s.build.w s.core.bits s.tdi % 2 ^ (k + 1) = msbValue (bits.take (k + 1)) := by
      rw [msbValue_take_succ hbit]
      exact shl1_low s.tdi hacc hkw
    rw [nextFsm_of_header hc hf] at hfsm
    by_cases hl : s.core.head ≤ 1
    · rw [if_pos hl] at hfsm
      exact .of_header_last hh (by omega) (shl1_lt ..) hlow hfsm
    · rw [if_neg hl] at hfsm
      simp only [Prod.mk.injEq] at hfsm
      obtain ⟨ef, eh, en⟩ := hfsm
      exact .header (by omega) (by omega) ef (by omega) (en ▸ hlow)
  | @body j _ hj hf hhead hn =>
    rw [nextFsm_of_transfer hc hf] at hfsm
    by_cases hl : s.core.bits ≤ 1
    · rw [if_pos hl] at hfsm
      simp only [Prod.mk.injEq] at hfsm
      obtain ⟨ef, eh, en⟩ := hfsm
      rw [show s.build.w + j + 1 = s.build.w + h by omega]
      exact .done ef (eh.trans hhead) en
    · rw [if_neg hl] at hfsm
      simp only [Prod.mk.injEq] at hfsm
      obtain ⟨ef, eh, en⟩ := hfsm
      exact .body (k := j + 1) (by omega) ef (eh.trans hhead) (by omega)
  | done => exact absurd hk (lt_irrefl _)

/-- The machine is in TRANSFER exactly in the body. -/
theorem FrameAt.transfer_iff {b : Build} {bits : List Bool} {h k : Nat} {c : Core} (hc : FrameAt b bits h k c) (hw : 1 ≤ b.w)
    (hk : k < b.w + h) : c.fsm = .transfer ↔ b.w ≤ k := by
  cases hc with
  | start hf => simp [hf]; omega
  | header hpos hkw hf => simp [hf]; omega
  | body hj hf => simp [hf]
  | done => exact absurd hk (lt_irrefl _)

theorem FrameAt.in_header {b : Build} {bits : List Bool} {h k : Nat} {c : Core} (hc : FrameAt b bits h k c) (hpos : 1 ≤ k)
    (hk : k < b.w) : c.fsm = .header := by
  cases hc with
  | start => omega
  | header _ _ hf => exact hf
  | body => omega
  | done => omega

theorem FrameAt.in_body {b : Build} {bits : List Bool} {h k : Nat} {c : Core} (hc : FrameAt b bits h k c) (hw : 1 ≤ b.w)
    (hlo : b.w ≤ k) (hk : k < b.w + h) : c.fsm = .transfer ∧ c.bits = h - (k - b.w) := by
  cases hc with
  | start => omega
  | header => omega
  | body hj hf _ hn => exact ⟨hf, by omega⟩
  | done => omega

theorem FrameAt.at_end {b : Build} {bits : List Bool} {h : Nat} {c : Core} (hc : FrameAt b bits h (b.w + h) c) (hw : 1 ≤ b.w) :
    c.fsm = .idle ∧ c.head = b.w - 1 ∧ c.bits = 0 := by
  generalize hk : b.w + h = k at hc
  cases hc with
  | start => omega
  | header => omega
  | body => omega
  | done hf hh hn => exact ⟨hf, hh, hn⟩

/-! ## The ticks of a frame -/

/-- The state immediately before a tick, as a function. -/
theorem atTick_iff_setUp {s v : State} {ts : List TickLine} {k : Nat} :
    AtTick s ts k v ↔ ∃ t, ts[k]? = some t ∧ v = ((ts.take k).foldl State.tick s).setUp t := by
  unfold AtTick
  constructor
  · rintro ⟨u, t, ht, hu, hv⟩
    rw [runTicks_eq] at hu
    cases hu
    rw [applyLevels_eq] at hv
    cases hv
    exact ⟨t, ht, rfl⟩
  · rintro ⟨t, ht, rfl⟩
    exact ⟨_, t, ht, runTicks_eq .., applyLevels_eq ..⟩

theorem atTick_setUp {ts : List TickLine} {k : Nat} {t : TickLine} (ht : ts[k]? = some t) (s : State) :
    AtTick s ts k (((ts.take k).foldl State.tick s).setUp t) := atTick_iff_setUp.2 ⟨t, ht, rfl⟩

/-- There is one state immediately before a tick. -/
theorem AtTick.unique {s v v' : State} {ts : List TickLine} {k : Nat} (h : AtTick s ts k v) (h' : AtTick s ts k v') : v = v' := by
  obtain ⟨t, ht, rfl⟩ := atTick_iff_setUp.1 h
  obtain ⟨t', ht', rfl⟩ := atTick_iff_setUp.1 h'
  rw [ht] at ht'
  cases ht'
  rfl

/-- Ticks that run through a frame with the header value `h`, or through a part of one that has its header whole: from IDLE the first
one takes a trigger, and none is reset. -/
structure FrameRun (s : State) (ts : List TickLine) (h : Nat) : Prop where
  idle : s.core.fsm = .idle
  header : FrameHeader s.build (ts.map TickLine.tdi) h
  trigger : ∀ v, AtTick s ts 0 v → (v.core.sig.shift && v.tdi) = true
  noReset : ∀ k v, k < s.build.w + h → AtTick s ts k v → v.core.sig.capture = false

/-- Before every tick of a frame, and after its last one, the machine stands where rule R112 has it. -/
theorem FrameRun.frameAt {s : State} {ts : List TickLine} {h : Nat} (hr : FrameRun s ts h) {k : Nat} (hts : k ≤ ts.length)
    (hk : k ≤ s.build.w + h) : FrameAt s.build (ts.map TickLine.tdi) h k ((ts.take k).foldl State.tick s).core := by
  induction k with
  | zero => exact .start hr.idle
  | succ k ih =>
    have ht : ts[k]? = some ts[k] := List.getElem?_eq_getElem (by omega)
    generalize ts[k] = t at ht
    have hat := (ih (by omega) (by omega)).congr (setUp_sameDomainA _ t)
    have hb : (((ts.take k).foldl State.tick s).setUp t).build = s.build := by simp
    have hnext : FrameAt s.build (ts.map TickLine.tdi) h (k + 1) (((ts.take k).foldl State.tick s).setUp t).risen := by
      rw [← hb] at hat ⊢
      refine hat.risen (hb ▸ hr.header) (by rw [hb]; omega) (hr.noReset k _ (by omega) (atTick_setUp ht s)) (fun h0 => ?_) ?_
      · subst h0
        exact hr.trigger _ (atTick_setUp ht s)
      · simp [ht]
    rw [foldl_tick_take_succ ht]
    obtain ⟨ef, eh, en, em, ec, -⟩ := raised_risen ((ts.take k).foldl State.tick s) t
    exact (hnext.congr ⟨ef, eh, en, ec, em⟩).congr (tick_sameDomainA _ t)

/-- A frame run from the trigger that its first tick takes. -/
theorem FrameRun.of_trigger {s v : State} {ts : List TickLine} {h : Nat} (hw : s.build.wf = true) (hlen : s.build.w ≤ ts.length)
    (hv : AtTick s ts 0 v) (hidle : v.core.fsm = .idle) (ht : (v.core.sig.shift && v.tdi) = true)
    (hvalue : h = msbValue ((ts.take s.build.w).map TickLine.tdi))
    (hno : ∀ k v, k < s.build.w + h → AtTick s ts k v → v.core.sig.capture = false) : FrameRun s ts h := by
  obtain ⟨t, hget, hup⟩ := atTick_iff_setUp.1 hv
  have hup' : v = s.setUp t := hup
  have htdi : t.tdi = true := by
    rw [← setUp_tdi s t, ← hup']
    exact (Bool.and_eq_true_iff.1 ht).2
  obtain ⟨hf, -⟩ := setUp_sameDomainA s t
  refine ⟨hf.symm.trans (hup' ▸ hidle), ⟨hw, by simpa using hlen, by simp [hget, htdi], ?_⟩, fun v' hv' => ?_, hno⟩
  · rw [hvalue, List.map_take]
  · rwa [hv'.unique hv]

/-- The ticks of rule R151's precondition are a frame run. -/
theorem FrameRun.of_frameTicks {s : State} {ts : List TickLine} {h : Nat} (hf : FrameTicks s ts h) : FrameRun s ts h := by
  obtain ⟨hw, -, hidle, hlen, hvalue, ⟨v, hv, ht⟩, hno⟩ := hf
  obtain ⟨t, -, hup⟩ := atTick_iff_setUp.1 hv
  obtain ⟨hfsm, -⟩ := setUp_sameDomainA s t
  have hup' : v = s.setUp t := hup
  exact .of_trigger hw (by omega) hv (by rw [hup', hfsm, hidle]) ht hvalue fun k v _ => hno k v

/-! ## What a frame leaves -/

/-- After its last tick a frame is in IDLE with the counters at rest and chip select still low. -/
theorem FrameRun.at_end {s : State} {ts : List TickLine} {h : Nat} (hr : FrameRun s ts h) (hlen : ts.length = s.build.w + h) :
    (ts.foldl State.tick s).core.fsm = .idle ∧ (ts.foldl State.tick s).core.head = s.build.w - 1 ∧
    (ts.foldl State.tick s).core.bits = 0 ∧ (ts.foldl State.tick s).core.csnQ = false := by
  have hw := Build.one_le_w hr.header.legal
  have hpos := hr.header.one_le
  have hend := hr.frameAt (k := s.build.w + h) hlen.ge le_rfl
  obtain ⟨t, ht⟩ : ∃ t, ts[s.build.w + h - 1]? = some t := ⟨_, List.getElem?_eq_getElem (by omega)⟩
  have hlast := (hr.frameAt (k := s.build.w + h - 1) (by omega) (by omega)).in_body hw (by omega) (by omega)
  have hsplit := foldl_tick_take_succ ht s
  rw [show s.build.w + h - 1 + 1 = ts.length by omega, List.take_length] at hsplit
  rw [← hlen, List.take_length, hlen] at hend
  obtain ⟨ef, eh, en⟩ := hend.at_end hw
  refine ⟨ef, eh, en, ?_⟩
  rw [hsplit, (tick_pinRegisters _ t).2, hlast.1]
  rfl

/-- The samples that the SPI device is shown in the ticks of a frame: chip select high in the header and low in the body. -/
def frameTrace (w : Nat) (sel : Nat → Bool) (bits : List Bool) : List SpiSample :=
  (List.range bits.length).map fun k => tickSample (sel k) (decide (k < w)) (bits.getD k false)

theorem frameTrace_snoc (w : Nat) (sel : Nat → Bool) (bits : List Bool) (b : Bool) :
    frameTrace w sel (bits ++ [b]) =
      frameTrace w sel bits ++ [tickSample (sel bits.length) (decide (bits.length < w)) b] := by
  have hbefore : ∀ k ∈ List.range bits.length, (bits ++ [b]).getD k false = bits.getD k false := fun k hk => by
    simp [List.getElem?_append_left (List.mem_range.1 hk)]
  rw [frameTrace, List.length_append, List.length_singleton, List.range_succ, List.map_append]
  congr 1
  · exact List.map_congr_left fun k hk => by rw [hbefore k hk]
  · simp

/-- With the chain selected throughout, the device sees the header bits and then exactly the body bits. -/
theorem frameTrace_selected {w : Nat} {header : List Bool} (hw : header.length = w) (body : List Bool) :
    frameTrace w (fun _ => true) (header ++ body) =
      header.map (fun b => ({ csn := .hi, mosi := Level.ofBool b } : SpiSample)) ++
        body.map (fun b => ({ csn := .lo, mosi := Level.ofBool b } : SpiSample)) := by
  subst hw
  refine List.ext_getElem (by simp [frameTrace]) fun k h1 h2 => ?_
  have hlen : k < header.length + body.length := by simpa using h2
  by_cases hk : k < header.length
  · have hbit : (header ++ body).getD k false = header[k] := by simp [List.getElem?_append_left hk, hk]
    simp only [frameTrace, List.getElem_map, List.getElem_range, hbit]
    simp [hk, tickSample, List.getElem_append_left, Level.ofBool]
  · have hle : header.length ≤ k := Nat.le_of_not_lt hk
    have hj : k - header.length < body.length := by omega
    have hbit : (header ++ body).getD k false = body[k - header.length] := by simp [List.getElem?_append_right hle, hj]
    simp only [frameTrace, List.getElem_map, List.getElem_range, hbit]
    rw [List.getElem_append_right (by simpa using hle)]
    simp [hk, tickSample, Level.ofBool]

/-- Over the ticks of a frame the SPI device is shown each tick's bit under the selection of that tick. -/
theorem FrameRun.spiLog {s : State} {ts : List TickLine} {h : Nat} (hr : FrameRun s ts h) (htck : s.tck = false) {sel : Nat → Bool}
    (hsel : ∀ k, k < ts.length → ((ts.take (k + 1)).foldl State.tick s).core.sig.sel = sel k) {k : Nat} (hts : k ≤ ts.length)
    (hk : k ≤ s.build.w + h) : ((ts.take k).foldl State.tick s).spiLog =
      (frameTrace s.build.w sel ((ts.take k).map TickLine.tdi)).reverse ++ s.spiLog := by
  have hw := Build.one_le_w hr.header.legal
  induction k with
  | zero => rfl
  | succ k ih =>
    obtain ⟨t, ht⟩ : ∃ t, ts[k]? = some t := ⟨_, List.getElem?_eq_getElem (by omega)⟩
    have hcsn : decide (((ts.take k).foldl State.tick s).core.fsm ≠ .transfer) = decide (k < s.build.w) := by
      have := (hr.frameAt (k := k) (by omega) (by omega)).transfer_iff hw (by omega)
      simp [this]
    have hsel' := hsel k (by omega)
    have hlen : ((ts.take k).map TickLine.tdi).length = k := by simp; omega
    rw [foldl_tick_take_succ ht] at hsel' ⊢
    rw [tick_spiLog (foldl_tick_tck htck _), hsel', hcsn, ih (by omega) (by omega), List.take_add_one, ht, Option.toList_some,
      List.map_append, List.map_singleton, frameTrace_snoc, hlen, List.reverse_append]
    rfl

/-- The same over a whole frame. -/
theorem FrameRun.spiLog_whole {s : State} {ts : List TickLine} {h : Nat} (hr : FrameRun s ts h) (htck : s.tck = false)
    (hlen : ts.length = s.build.w + h) {sel : Nat → Bool}
    (hsel : ∀ k, k < ts.length → ((ts.take (k + 1)).foldl State.tick s).core.sig.sel = sel k) :
    (ts.foldl State.tick s).spiLog = (frameTrace s.build.w sel (ts.map TickLine.tdi)).reverse ++ s.spiLog := by
  have h := hr.spiLog htck hsel le_rfl hlen.le
  rwa [List.take_length] at h

/-- `mosi` shows the last bit shifted in. -/
theorem foldl_tick_mosiQ (ts : List TickLine) (s : State) :
    (ts.foldl State.tick s).core.mosiQ = (ts.map TickLine.tdi).getLastD s.core.mosiQ := by
  induction ts generalizing s with
  | nil => rfl
  | cons t ts ih => rw [List.foldl_cons, ih, (tick_pinRegisters s t).1, List.map_cons, List.getLastD_cons]

theorem foldl_tick_settled {ts : List TickLine} (hts : ts ≠ []) (s : State) : (ts.foldl State.tick s).Settled := by
  cases ts with
  | nil => exact absurd rfl hts
  | cons t ts => exact List.foldlRecOn (motive := State.Settled) ts _ (tick_settled s t) fun u _ t _ => tick_settled u t

/-- The tick of an item's bit updates chip select by the state before it. -/
theorem itemBit_csnQ (s : State) (b : Bool) : (s.itemBit b).core.csnQ = decide (s.core.fsm ≠ .transfer) := by
  rw [itemBit_eq, State.withQueues_core, (tick_pinRegisters s _).2]

/-! ## The frame of a stream item -/

section Item

variable {s : State} {h : Nat} {body : List Bool} (hw : s.build.wf = true) (hf : frameWf s.build h body = true)
  (htck : s.tck = false) (hidle : s.core.fsm = .idle)
  (hheld : s.build.detMode = .latched → s.core.selected = true ∧ s.core.det = .held)

/-- The ticks of an XFER item. -/
def State.xferLines (s : State) (h : Nat) (body : List Bool) : List TickLine :=
  itemLines (frameBits s.build.w h body) s.misoFeed

include hheld in
/-- The detector keeps its registers over the ticks of an item. -/
theorem xferLines_keep_det (k : Nat) :
    (((s.xferLines h body).take k).foldl State.tick s).core.det = s.core.det ∧
    (((s.xferLines h body).take k).foldl State.tick s).core.selected = s.core.selected :=
  foldl_tick_keeps_det (fun _ ht => itemLines_rstn (List.mem_of_mem_take ht)) fun hm => (hheld hm).2

include hheld in
/-- The chain is selected in every tick of an item. -/
theorem xferLines_selected {k : Nat} (hk : k < (s.xferLines h body).length) :
    (((s.xferLines h body).take (k + 1)).foldl State.tick s).core.sig.sel = true := by
  obtain ⟨t, ht⟩ : ∃ t, (s.xferLines h body)[k]? = some t := ⟨_, List.getElem?_eq_getElem hk⟩
  obtain ⟨-, hselected⟩ := xferLines_keep_det (h := h) (body := body) hheld (k + 1)
  rw [foldl_tick_take_succ ht] at hselected ⊢
  rw [(tick_sel _ t).1, foldl_tick_build]
  cases hm : s.build.detMode with
  | passthrough => exact (itemLines_flags (List.mem_of_getElem? ht)).1
  | latched => exact hselected.trans (hheld hm).1

include hw hf htck hidle hheld in
/-- The ticks of an XFER item are a frame: the flags of an item trigger and do not reset. -/
theorem xferLines_frameTicks : FrameTicks s (s.xferLines h body) h := by
  obtain ⟨hlo, hhi, hbody⟩ := frameWf_iff.1 hf
  have hlt : h < 2 ^ s.build.w := by have := Nat.two_pow_pos s.build.w; omega
  have hheader := msbBits_of_frame (Build.one_le_w hw) hlo hlt
  refine ⟨hw, htck, hidle, by simp [State.xferLines, hbody], ?value, ?trigger, fun k v hv => ?noReset⟩
  case value =>
    rw [State.xferLines, List.map_take, itemLines_tdi, frameBits, List.take_left' (msbBits_length ..), msbValue_msbBits,
      Nat.mod_eq_of_lt hlt]
  case trigger =>
    have hlines : ∃ t, (s.xferLines h body)[0]? = some t ∧ t.tdi = true := by
      rw [State.xferLines, frameBits, hheader]
      exact ⟨_, rfl, rfl⟩
    obtain ⟨t, ht, htdi⟩ := hlines
    obtain ⟨hsel, hshift, hcapture, hpr⟩ := itemLines_flags (List.mem_of_getElem? ht)
    have hup := (setUp_sig_of_flags s hsel hshift hcapture hpr).2 fun hm => (hheld hm).1
    refine ⟨s.setUp t, atTick_setUp ht s, ?_⟩
    rw [setUp_tdi, htdi, hup]
    rfl
  case noReset =>
    obtain ⟨t, ht, rfl⟩ := atTick_iff_setUp.1 hv
    obtain ⟨hsel, hshift, hcapture, hpr⟩ := itemLines_flags (List.mem_of_getElem? ht)
    exact (setUp_sig_of_flags _ hsel hshift hcapture hpr).1

end Item

/-! ## The statements -/

/-- Settles O47: the place of every tick in the frame. -/
theorem frameTiming : Obligations.FrameTiming := by
  intro s v₀ ts h hw hlen hv hidle ht hvalue hno
  have hr := FrameRun.of_trigger hw hlen hv hidle ht hvalue hno
  have hone := Build.one_le_w hw
  obtain ⟨hlo, hlt⟩ := hr.header.bounds
  refine ⟨hlo, by omega, fun k v hv => ?_⟩
  obtain ⟨t, hget, rfl⟩ := atTick_iff_setUp.1 hv
  have hkts : k < ts.length := (List.getElem?_eq_some_iff.1 hget).1
  have hat : k ≤ s.build.w + h → FrameAt s.build (ts.map TickLine.tdi) h k (((ts.take k).foldl State.tick s).setUp t).core :=
    fun hk => (hr.frameAt hkts.le hk).congr (setUp_sameDomainA _ t)
  refine ⟨fun hpos hk => (hat (by omega)).in_header hpos hk, fun hle hk => (hat (by omega)).in_body hone hle hk, fun hk => ?_⟩
  subst hk
  obtain ⟨ef, eh, -⟩ := (hat le_rfl).at_end hone
  exact ⟨ef, eh⟩

/-- Settles O45: the end of the frame, its trace and the read-back; the selection of a tick by the build's mode. -/
theorem frameUnderAnyFlags : Obligations.FrameUnderAnyFlags := by
  intro s ts h sel hf hsel
  have hr := FrameRun.of_frameTicks hf
  obtain ⟨-, htck, -, hlen, -⟩ := hf
  have hsel' : ∀ k, k < ts.length → ((ts.take (k + 1)).foldl State.tick s).core.sig.sel = sel k :=
    fun k hk => hsel k _ hk (runTicks_eq ..)
  obtain ⟨ef, eh, en, ecsn⟩ := hr.at_end hlen
  refine ⟨_, runTicks_eq .., ef, eh, en, ecsn, ?trace, foldl_tick_readBack ts htck, fun hm k hk => ?passthrough,
    foldl_tick_tck htck ts, foldl_tick_build s ts, fun next u hu => ?released⟩
  case trace =>
    rw [hr.spiLog_whole htck hlen hsel', frameTrace, List.length_map]
    congr 2
    refine List.map_congr_left fun k _ => ?_
    rw [show false = ({} : TickLine).tdi from rfl, List.getD_map]
    cases sel k <;> by_cases hk : k < s.build.w <;> simp [tickSample, hk, Level.ofBool]
  case passthrough =>
    obtain ⟨t, ht⟩ : ∃ t, ts[k]? = some t := ⟨_, List.getElem?_eq_getElem hk⟩
    rw [← hsel' k hk, foldl_tick_take_succ ht, (tick_sel _ t).1, foldl_tick_build, hm]
    simp [ht]
  case released =>
    rw [runTick_tick] at hu
    cases hu
    rw [(tick_pinRegisters _ next).2, ef]
    rfl

/-- Settles O44: the item is the ticks of its lines, which are a frame with the chain selected. -/
theorem xferItem : Obligations.XferItem := by
  intro s h body hw hf htck hidle hheld
  have hframe := xferLines_frameTicks hw hf htck hidle hheld
  have hr := FrameRun.of_frameTicks hframe
  obtain ⟨-, -, -, hlen, -⟩ := hframe
  obtain ⟨-, -, hbody⟩ := frameWf_iff.1 hf
  obtain ⟨ef, eh, en, ecsn⟩ := hr.at_end hlen
  have hmosi := foldl_tick_mosiQ (s.xferLines h body) s
  have hspi := hr.spiLog_whole htck hlen fun k hk => xferLines_selected hheld hk
  have hread := foldl_tick_readBack (s.xferLines h body) htck
  obtain ⟨hdet, hselected⟩ := xferLines_keep_det (h := h) (body := body) hheld (s.xferLines h body).length
  rw [List.take_length] at hdet hselected
  rw [State.xferLines, itemLines_tdi] at hmosi
  rw [State.xferLines, itemLines_tdi, frameBits, frameTrace_selected (msbBits_length ..)] at hspi
  have hmosi' : (frameBits s.build.w h body).getLastD s.core.mosiQ = body.getLastD false := by
    have hne : body ≠ [] := List.ne_nil_of_length_pos (hbody ▸ hr.header.one_le)
    rw [frameBits, List.getLastD_eq_getLast?, List.getLastD_eq_getLast?, List.getLast?_append_of_ne_nil _ hne,
      List.getLast?_eq_some_getLast hne]
    rfl
  rw [State.xferLines, itemLines_miso, frameBits_length, hbody] at hread
  rw [exec_xfer, foldl_itemBit]
  refine ⟨_, rfl, ?_⟩
  simp only [State.withQueues_core, State.withQueues_hostLog, State.withQueues_spiLog, State.withQueues_misoFeed,
    State.withQueues_tck, State.withQueues_settled, State.withQueues_build, State.withQueues_env, State.withQueues_peers,
    frameBits_length, hbody, true_and]
  have hne : s.xferLines h body ≠ [] := List.ne_nil_of_length_pos (by have := hr.header.one_le; omega)
  refine ⟨ef, eh, en, ecsn, hmosi.trans hmosi', hdet, hselected, hspi, hread, foldl_tick_tck htck _, foldl_tick_settled hne s,
    foldl_tick_build s _, foldl_tick_peers_length s _, fun u hu => ?_⟩
  have hcsn := itemBit_csnQ (((s.xferLines h body).foldl State.tick s).withQueues s.env (s.misoFeed.drop (s.build.w + h))) false
  rw [exec_nop] at hu
  cases hu
  rw [State.withQueues_core, ef] at hcsn
  exact hcsn

/-- Settles O46: the trace is a function of the header width and of the bits, and both frames end with the counters at rest. -/
theorem backToBackFramesAreIdentical : Obligations.BackToBackFramesAreIdentical := by
  refine ⟨fun s t u h body hw hf htck hidle hheld hx hx' => ?items, fun s t u ts ts' h hf hf' htdi hsel hsel' hx hx' => ?ticks⟩
  case items =>
    obtain ⟨t', ht, ef, eh, en, -, -, ed, es, hspi, -, -, etck, -, eb, -⟩ := xferItem s h body hw hf htck hidle hheld
    rw [hx] at ht
    cases ht
    obtain ⟨u', hu, ef', eh', en', -, -, -, -, hspi', -⟩ :=
      xferItem t h body (eb ▸ hw) (eb ▸ hf) etck ef (by rw [eb, ed, es]; exact hheld)
    rw [hx'] at hu
    cases hu
    rw [eb] at eh' hspi'
    exact ⟨ef'.trans ef.symm, eh'.trans eh.symm, en'.trans en.symm, _, hspi, hspi'⟩
  case ticks =>
    have hr := FrameRun.of_frameTicks hf
    have hr' := FrameRun.of_frameTicks hf'
    obtain ⟨-, htck, -, hlen, -⟩ := hf
    obtain ⟨-, htck', -, hlen', -⟩ := hf'
    have hspi := hr.spiLog_whole (sel := fun _ => true) htck hlen fun k hk => hsel k _ hk (runTicks_eq ..)
    have hspi' := hr'.spiLog_whole (sel := fun _ => true) htck' hlen' fun k hk => hsel' k _ hk (runTicks_eq ..)
    obtain ⟨ef, eh, en, -⟩ := hr.at_end hlen
    obtain ⟨ef', eh', en', -⟩ := hr'.at_end hlen'
    rw [runTicks_eq] at hx hx'
    cases hx
    cases hx'
    rw [foldl_tick_build] at eh' hspi'
    rw [htdi] at hspi'
    exact ⟨ef'.trans ef.symm, eh'.trans eh.symm, en'.trans en.symm, _, by simp [frameTrace], hspi, hspi'⟩

end Sys2Proof.Machine
end
